-- ==== Sys2Proof/Word.lean ====
section
/-! DEFINITION. The word types of SPWM-TG (00_scope.md R12, 10_state.md R21, 20_memory.md R61). -/

namespace Sys2Proof

/-- A micro-program ROM address: 11 bits (10_state.md R23). -/
abbrev Addr := BitVec 11

/-- A micro-op word: 16 bits (30_encoding.md R81). -/
abbrev Word := BitVec 16

/-- A duty value: u16 (10_state.md R27). -/
abbrev Duty := BitVec 16

/-- A word of the observation bus: 32 bits (10_state.md R48). -/
abbrev BusWord := BitVec 32

end Sys2Proof
end

