-- ==== Sys2Proof/Config.lean ====
section
/-! DEFINITION. The configuration: the parameters of 00_scope.md R9 and R10, fixed when the block is built (R8). -/

namespace Sys2Proof

/-- VARIANT (00_scope.md R7). -/
inductive Variant where
  | toggle
  | freeRun
deriving DecidableEq, Repr

/-- VERBOSE (00_scope.md R10). -/
inductive Verbosity where
  | off
  | on
deriving DecidableEq, Repr

/-- WAIT_MODE: whether a foreground wait counts the time spent in the handler (41_streamer.md R135). -/
inductive WaitMode where
  | elapsed
  | executed
deriving DecidableEq, Repr

/-- TIME_MODE: when a tick is enabled (60_exceptions.md R215, R227). -/
inductive TimeMode where
  | ideal
  | relaxed
deriving DecidableEq, Repr

/-- The parameters of 00_scope.md R9 and R10.
SAMPLE_US is derived (`Config.sampleUs`), and so is the table ROM (`tableEntry`). -/
structure Config where
  /-- N, the sample count. -/
  n          : Nat
  /-- F_HZ, the sine frequency. -/
  fHz        : Nat
  /-- DEAD, the dead-time in duty counts. -/
  dead       : Nat
  /-- FS, the full-scale duty value. -/
  fs         : Nat
  /-- GAP_US. -/
  gapUs      : Nat
  /-- DEBOUNCE_US. -/
  debounceUs : Nat
  variant    : Variant
  verbose    : Verbosity
  waitMode   : WaitMode
  timeMode   : TimeMode
  /-- TOOL_N, the offline tool's own sample count (40_generator.md R116). -/
  toolN      : Nat
  /-- TOOL_DEAD, the offline tool's own dead-time. -/
  toolDead   : Nat
deriving DecidableEq, Repr

/-- The configuration `State.reset` carries: the reference values of 00_scope.md R9 and R10.
DESIGN CHOICE (log entry 2), unsafe to rest a claim on: the OPEN parameters DEAD, GAP_US, DEBOUNCE_US, WAIT_MODE,
VERBOSE, TOOL_N and TOOL_DEAD have no value in the spec. -/
def Config.reference : Config where
  n := 100
  fHz := 50
  dead := 100
  fs := 65535
  gapUs := 10
  debounceUs := 20000
  variant := .toggle
  verbose := .on
  waitMode := .elapsed
  timeMode := .ideal
  toolN := 100
  toolDead := 100

end Sys2Proof
end

