-- ==== Sys2Proof/Machine/Generator.lean ====
section
/-! DEFINITION. The dead-time-compensated table generator (40_generator.md R100 to R110), in exact integer arithmetic.

The spec's sine is the exact real one (R102).
`sineAtLeast N i p q` decides `p / q ≤ sin (2πi/N)` with integers alone, so no precision is chosen anywhere:
with `cos α = p / q`, the integers `q^(j-1) · sin (jα) / sin α` follow a two-term recurrence, their signs count how many
half turns `nα` has passed, and `p / q = cos α ≤ cos (πk/n)` holds exactly when `nα` has passed at least `k` of them.
Sys2Proof/Laws/Generator.lean proves that this decides the real inequality. -/

namespace Sys2Proof.Machine

/-- `satsub` of 00_scope.md R14: floors at 0, never wraps. -/
def satsub (a b : Nat) : Nat := if b ≤ a then a - b else 0

/-- Counts half turns: from `prev`, `cur` (the scaled sines of two neighbouring multiples of `α`) and the `count` of half
turns passed so far, the count after `fuel` more multiples. -/
def halfTurns (p q : Int) : Nat → Int → Int → Nat → Nat
  | 0, _, _, count => count
  | fuel + 1, prev, cur, count =>
    let next := 2 * p * cur - q * q * prev
    let ahead := if count % 2 = 0 then next else -next
    halfTurns p q fuel cur next (if 0 < ahead then count else count + 1)

/-- The whole half turns in `n · α`, for `cos α = p / q`. -/
def turns (p q : Int) : Nat → Nat
  | 0 => 0
  | n + 1 => halfTurns p q n 0 1 0

/-- `k` with `sin (2πi/N) = cos (π · k / (2N))` and `k ≤ 2N`, for `i < N`. -/
def angleNum (n i : Nat) : Nat :=
  let k := ((n : Int) - 4 * i).natAbs
  if k ≤ 2 * n then k else 4 * n - k

/-- Decides `p / q ≤ sin (2πi/N)` (R101, R102), for `-q < p < q` and `i < N`. -/
def sineAtLeast (n i : Nat) (p q : Int) : Bool :=
  let k := angleNum n i
  let g := Nat.gcd k (2 * n)
  decide (k / g ≤ turns p q (2 * n / g))

/-- Decides `m ≤ (s + 1) · FS/2 + 1/2` for the sine `s` at index `i` (R103, R104). -/
def dutyReaches (n fs i m : Nat) : Bool :=
  decide (m ≤ fs) && sineAtLeast n i (2 * (m : Int) - 1 - fs) fs

/-- The largest duty below `acc + 2 ^ bits` that `dutyReaches`, by bisection. -/
def searchDuty (n fs i : Nat) : Nat → Nat → Nat
  | 0, acc => acc
  | bits + 1, acc => searchDuty n fs i bits (if dutyReaches n fs i (acc + 2 ^ bits) then acc + 2 ^ bits else acc)

/-- `main_raw_i = floor ((sin (2πi/N) + 1) · FS/2 + 1/2)` (R104), a natural of 16 bits because FS ≤ 65535. -/
def mainRaw (n fs i : Nat) : Nat := searchDuty n fs i 16 0

/-- `comp_raw_i` (R105). -/
def compRaw (n fs i : Nat) : Nat := satsub fs (mainRaw n fs i)

/-- The table entry at index `i`: dead-time subtracted from each channel on its own (R106, R107). -/
def dutyPair (n dead fs i : Nat) : Duty × Duty :=
  (BitVec.ofNat 16 (satsub (mainRaw n fs i) dead), BitVec.ofNat 16 (satsub (compRaw n fs i) dead))

/-- `generate(N, DEAD)` at full scale `fs` (R100, R110); `none` is the refusal of N = 0 (R109). -/
def generate (fs n dead : Nat) : Option (List (Duty × Duty)) :=
  if n = 0 then none else some ((List.range n).map (dutyPair n dead fs))

/-- The table ROM at an index (10_state.md R44); `none` where the ROM has no entry (20_memory.md R61: index 0..N-1). -/
def tableEntry (cfg : Config) (i : Nat) : Option (Duty × Duty) :=
  if i < cfg.n then some (dutyPair cfg.n cfg.dead cfg.fs i) else none

/-- One line of the dump: `(main, comp)` and a line feed (R117). -/
def dumpLine (e : Duty × Duty) : String :=
  "(" ++ Nat.repr e.1.toNat ++ ", " ++ Nat.repr e.2.toNat ++ ")\n"

/-- What a run of the offline tool leaves: its standard output and its exit code (R116). -/
structure ToolRun where
  stdout   : String
  exitCode : Nat
deriving DecidableEq, Repr

/-- The legal ranges of TOOL_N and TOOL_DEAD: those of N and DEAD (00_scope.md R9). -/
def toolWf (cfg : Config) : Bool := decide (1 ≤ cfg.toolN ∧ cfg.toolN ≤ 65535 ∧ cfg.toolDead ≤ 65535)

/-- The offline dump tool for the configured TOOL_N and TOOL_DEAD (R116, R117): it reads no input and has no error path.
There is no tool for constants outside their ranges.
DESIGN CHOICE (log entry 21): the tool runs whatever the rest of the configuration is, because it is outside the block (R116);
00_scope.md R11 refuses an ill-formed configuration its machine and does not name the tool. An FS outside its range is used
as it is, and each duty is cut to 16 bits. -/
def runTool (cfg : Config) : Option ToolRun :=
  if toolWf cfg then
    (generate cfg.fs cfg.toolN cfg.toolDead).map fun table =>
      { stdout := String.join (table.map dumpLine), exitCode := 0 }
  else none

end Sys2Proof.Machine
end

