-- ==== Sys2Proof/Machine/Operands.lean ====
section
/-! DEFINITION. The operands a micro-op takes from the configuration (30_encoding.md R83: "Every numeric quantity a
micro-op uses comes from the configuration"). -/

namespace Sys2Proof

/-- `SAMPLE_US = 1_000_000 div (F_HZ · N)` (41_streamer.md R122). -/
def Config.sampleUs (cfg : Config) : Nat := 1000000 / (cfg.fHz * cfg.n)

/-- Whether the block has the enable source (00_scope.md R7). -/
def Config.isToggle (cfg : Config) : Bool := decide (cfg.variant = .toggle)

end Sys2Proof
end

