-- ==== Sys2Proof/Syntax.lean ====
section
/-! DEFINITION. The 22 micro-ops of 30_encoding.md R84, one constructor a row of spec/opcode_table.json. -/

namespace Sys2Proof

/-- The two sequencers that fetch and execute micro-ops (00_scope.md R4). -/
inductive Context where
  | fg
  | isr
deriving DecidableEq, Repr

/-- A micro-op.
A form-T operand is an absolute ROM address; a form-V operand is one bit (30_encoding.md R82, R83). -/
inductive Instr where
  | init
  | put
  | unmask
  | poll (target : Addr)
  | setind (v : Bool)
  | passinit
  | wra
  | wrb
  | inc
  | waits
  | passnext (target : Addr)
  | diag (v : Bool)
  | za
  | zb
  | gap
  | jmp (target : Addr)
  | take
  | test (target : Addr)
  | toggle
  | clear
  | debounce
  | reti
deriving DecidableEq, Repr

/-- The sequencer that may execute a micro-op: the column "context" of 30_encoding.md R84. -/
def Instr.context : Instr → Context
  | .init => .fg
  | .put => .fg
  | .unmask => .fg
  | .poll _ => .fg
  | .setind _ => .fg
  | .passinit => .fg
  | .wra => .fg
  | .wrb => .fg
  | .inc => .fg
  | .waits => .fg
  | .passnext _ => .fg
  | .diag _ => .fg
  | .za => .fg
  | .zb => .fg
  | .gap => .fg
  | .jmp _ => .fg
  | .take => .isr
  | .test _ => .isr
  | .toggle => .isr
  | .clear => .isr
  | .debounce => .isr
  | .reti => .isr

end Sys2Proof
end

