-- ==== Sys2Proof/WellFormed.lean ====
section
/-! DEFINITION. The checks of 00_scope.md R11 on a configuration, and of 30_encoding.md R86 on a micro-op in a context. -/

namespace Sys2Proof

/-- A micro-op is well formed for a sequencer when its opcode belongs to that sequencer (30_encoding.md R86). -/
def Instr.wf (ctx : Context) (i : Instr) : Bool := decide (i.context = ctx)

/-- 1 ≤ N ≤ 65535. -/
def Config.wfSamples (cfg : Config) : Bool := decide (1 ≤ cfg.n ∧ cfg.n ≤ 65535)

/-- 1 ≤ F_HZ ≤ 65535. -/
def Config.wfFrequency (cfg : Config) : Bool := decide (1 ≤ cfg.fHz ∧ cfg.fHz ≤ 65535)

/-- 1 ≤ FS ≤ 65535. -/
def Config.wfFullScale (cfg : Config) : Bool := decide (1 ≤ cfg.fs ∧ cfg.fs ≤ 65535)

/-- DEAD ≤ 65535. -/
def Config.wfDeadTime (cfg : Config) : Bool := decide (cfg.dead ≤ 65535)

/-- F_HZ·N ≤ 1_000_000, so that SAMPLE_US ≥ 1. -/
def Config.wfSampleRate (cfg : Config) : Bool := decide (cfg.fHz * cfg.n ≤ 1000000)

/-- 1 ≤ GAP_US < SAMPLE_US, and GAP_US < 2^32. -/
def Config.wfGap (cfg : Config) : Bool := decide (1 ≤ cfg.gapUs ∧ cfg.gapUs < cfg.sampleUs ∧ cfg.gapUs < 2 ^ 32)

/-- DEBOUNCE_US < 2^32. -/
def Config.wfDebounce (cfg : Config) : Bool := decide (cfg.debounceUs < 2 ^ 32)

/-- A configuration is well formed iff all the conditions of 00_scope.md R11 hold. -/
def Config.wf (cfg : Config) : Bool :=
  cfg.wfSamples && cfg.wfFrequency && cfg.wfFullScale && cfg.wfDeadTime && cfg.wfSampleRate && cfg.wfGap &&
    cfg.wfDebounce

end Sys2Proof
end

