-- ==== Sys2Proof/Decode.lean ====
section
/-! DEFINITION. Fields of a micro-op word, decode (30_encoding.md R81 to R88) and the encoder. -/

namespace Sys2Proof

/-- Why a word is Illegal in a context (30_encoding.md R85, R86). -/
inductive Illegal where
  /-- OP = 0x00 or OP ≥ 0x17. -/
  | opcode
  /-- The opcode belongs to the other sequencer. -/
  | context
  /-- A reserved operand bit is not 0. -/
  | operand
deriving DecidableEq, Repr

/-- OP, bits 15:11 (R81). -/
def opField (w : Word) : BitVec 5 := w.extractLsb' 11 5

/-- A, bits 10:0 (R81). -/
def aField (w : Word) : BitVec 11 := w.extractLsb' 0 11

/-- Form N: A must be 0 (R82). -/
def formN (a : BitVec 11) (i : Instr) : Except Illegal Instr :=
  if a = 0 then .ok i else .error .operand

/-- Form V: v = A[0], and A[10:1] must be 0 (R82). -/
def formV (a : BitVec 11) (i : Bool → Instr) : Except Illegal Instr :=
  if a.extractLsb' 1 10 = 0 then .ok (i (a.getLsbD 0)) else .error .operand

/-- Form T: target = A, an absolute address (R82, R83). -/
def formT (a : BitVec 11) (i : Addr → Instr) : Except Illegal Instr := .ok (i a)

/-- The sequencer an opcode belongs to; `none` for an illegal opcode (R84, R86). -/
def opContext (op : BitVec 5) : Option Context :=
  if op = 0 ∨ 0x17 ≤ op.toNat then none else if op.toNat ≤ 0x10 then some .fg else some .isr

/-- The operand forms of R84, opcode by opcode. -/
def decodeOperands (op : BitVec 5) (a : BitVec 11) : Except Illegal Instr :=
  match op.toNat with
  | 0x01 => formN a .init
  | 0x02 => formN a .put
  | 0x03 => formN a .unmask
  | 0x04 => formT a .poll
  | 0x05 => formV a .setind
  | 0x06 => formN a .passinit
  | 0x07 => formN a .wra
  | 0x08 => formN a .wrb
  | 0x09 => formN a .inc
  | 0x0A => formN a .waits
  | 0x0B => formT a .passnext
  | 0x0C => formV a .diag
  | 0x0D => formN a .za
  | 0x0E => formN a .zb
  | 0x0F => formN a .gap
  | 0x10 => formT a .jmp
  | 0x11 => formN a .take
  | 0x12 => formT a .test
  | 0x13 => formN a .toggle
  | 0x14 => formN a .clear
  | 0x15 => formN a .debounce
  | 0x16 => formN a .reti
  | _ => .error .opcode

/-- `decode(w, ctx)`, total on all words and both contexts (R88). -/
def decode (ctx : Context) (w : Word) : Except Illegal Instr :=
  match opContext (opField w) with
  | none => .error .opcode
  | some c => if c = ctx then decodeOperands (opField w) (aField w) else .error .context

/-- A word from its two fields (R81). -/
def wordOf (op : BitVec 5) (a : BitVec 11) : Word := op ++ a

/-- A form-V operand field: v in bit 0 (R82). -/
def vField (v : Bool) : BitVec 11 := if v then 1 else 0

/-- The word of a micro-op, from the column "match" of R84 and its operand. -/
def encode : Instr → Word
  | .init => 0x0800
  | .put => 0x1000
  | .unmask => 0x1800
  | .poll target => wordOf 0x04 target
  | .setind v => wordOf 0x05 (vField v)
  | .passinit => 0x3000
  | .wra => 0x3800
  | .wrb => 0x4000
  | .inc => 0x4800
  | .waits => 0x5000
  | .passnext target => wordOf 0x0B target
  | .diag v => wordOf 0x0C (vField v)
  | .za => 0x6800
  | .zb => 0x7000
  | .gap => 0x7800
  | .jmp target => wordOf 0x10 target
  | .take => 0x8800
  | .test target => wordOf 0x12 target
  | .toggle => 0x9800
  | .clear => 0xA000
  | .debounce => 0xA800
  | .reti => 0xB000

/-- The word of an instruction whose bits are `w`, of which the table gives `nbits`; the bits above are 0. -/
def tableWord (nbits w : Nat) : Word := BitVec.ofNat 16 (w % 2 ^ nbits)

/-- The sequencer that would execute a word: the one its opcode belongs to, and FG for an illegal opcode. -/
def wordContext (w : Word) : Context := (opContext (opField w)).getD .fg

/-- The micro-op the decoder reads from an opcode-table word, in the context the word belongs to. -/
def decodeTableWord (nbits w : Nat) : Option Instr :=
  match decode (wordContext (tableWord nbits w)) (tableWord nbits w) with
  | .ok i => some i
  | .error _ => none

end Sys2Proof
end

