-- ==== Sys2Proof/Machine/State.lean ====
section
/-! DEFINITION. The state of SPWM-TG (10_state.md R21), the reasons a step can stop, and the state after reset (R59). -/

namespace Sys2Proof.Machine

/-- The fatal causes; their numeric codes are `FatalCause.code` (60_exceptions.md R207; the codes 4..7 are never raised). -/
inductive FatalCause where
  | noFatal
  | startupFault
  | handoffEmpty
  | illegalMicroOp
deriving DecidableEq, Repr

/-- An entry of OUT_LOG: the time, the sink and the value, or the reset marker (10_state.md R46). -/
inductive OutEntry where
  | chA (time : Nat) (value : Duty)
  | chB (time : Nat) (value : Duty)
  | ind (time : Nat) (value : Bool)
  | reset (time : Nat)
deriving DecidableEq, Repr

/-- An entry of DIAG_LOG: the time and "Running" (true) or "Paused" (false) (10_state.md R46). -/
structure DiagEntry where
  time    : Nat
  running : Bool
deriving DecidableEq, Repr

/-- The block's answer to a host access (20_memory.md R64, R66). -/
inductive BusReply where
  | data (w : BusWord)
  | busError
  | acknowledged
deriving DecidableEq, Repr

/-- A host access and its answer, as the host records it (log entry 8). -/
inductive HostEntry where
  | read (addr width : Nat) (reply : BusReply)
  | write (addr width data : Nat) (reply : BusReply)
deriving DecidableEq, Repr

/-- A move of the scheduler, ENV or HOST: which enabled step comes next (00_scope.md R16; 60_exceptions.md R215, R226). -/
inductive Move where
  /-- The block's own enabled step: interrupt entry, ISR micro-op or FG micro-op. -/
  | block
  /-- A tick. -/
  | tick
  /-- ENV sets BTN. -/
  | button (level : Bool)
  /-- ENV settles the startup outcome the next INIT reads. -/
  | startup (ok : Bool)
  /-- ENV asserts reset while it drives BTN to `level`. -/
  | reset (level : Bool)
  /-- HOST reads `width` bytes at `addr`. -/
  | hostRead (addr width : Nat)
  /-- HOST writes `width` bytes of `data` at `addr`. -/
  | hostWrite (addr width data : Nat)
deriving DecidableEq, Repr

/-- The micro-program ROM: its words, by word address, that differ from the canonical image (`canonicalWord`).
The canonical form is `Memory.wf` (log entry 3). -/
abbrev Memory := List (Nat × Word)

/-- What a step changes: the record of 10_state.md R21, then the inputs of ENV, HOST and the scheduler.
The configuration and the ROM are no part of it (00_scope.md R8). -/
structure Block where
  /-- FG_PC (R23). -/
  fgPc         : Addr
  /-- ISR_PC (R24). -/
  isrPc        : Addr
  /-- IDX (R25). -/
  idx          : Nat
  /-- PASS_REM (R26). -/
  passRem      : Nat
  /-- CHA (R27). -/
  chA          : Duty
  /-- CHB (R28). -/
  chB          : Duty
  /-- IND (R29). -/
  ind          : Bool
  /-- LAST (R30): true is Running. -/
  last         : Bool
  /-- EN (R31). -/
  en           : Bool
  /-- PEND (R32). -/
  pend         : Bool
  /-- IRQ_EN (R33). -/
  irqEn        : Bool
  /-- IN_ISR (R34). -/
  inIsr        : Bool
  /-- SLOT_FULL (R35). -/
  slotFull     : Bool
  /-- OWNED (R36). -/
  owned        : Bool
  /-- ARMED (R37). -/
  armed        : Bool
  /-- FG_WAIT_ACTIVE (R38). -/
  fgWaitActive : Bool
  /-- FG_WAIT_REM (R38). -/
  fgWaitRem    : Nat
  /-- DEB_ACTIVE (R39). -/
  debActive    : Bool
  /-- DEB_REM (R39). -/
  debRem       : Nat
  /-- FATAL (R40). -/
  fatal        : FatalCause
  /-- T (R41). -/
  time         : Nat
  /-- BTN (R42): true is released. -/
  btn          : Bool
  /-- OUT_LOG (R46), oldest first. -/
  outLog       : List OutEntry
  /-- DIAG_LOG (R46), oldest first. -/
  diagLog      : List DiagEntry
  /-- Moves still to come, next first; when it is empty the block runs by itself (log entry 4). -/
  schedule     : List Move
  /-- The startup outcome ENV offers to INIT (60_exceptions.md R226; log entry 6). -/
  startupOk    : Bool
  /-- The host's own record of its accesses (log entry 8). -/
  hostLog      : List HostEntry
deriving DecidableEq, Repr

/-- A state of the machine: a block, with the parameters it was built with.
`stepWith` is the step relation with the parameters as its arguments, as 00_scope.md R8 has it (log entry 1). -/
structure State extends Block where
  /-- The configuration (00_scope.md R8 to R10); no step changes it. -/
  cfg          : Config
  /-- The micro-program ROM (10_state.md R45; MP_FG and MP_ISR of 00_scope.md R10); no step changes it. -/
  rom          : Memory
deriving DecidableEq, Repr

/-- Why the machine stops with a fault. -/
inductive Fault where
  /-- WRA and WRB raise it when IDX ≥ N, where the table ROM has no entry.
  Safe: 20_memory.md R62 says that it never happens, and no state that the steps reach from reset has such an IDX (log entry 10). -/
  | tableIndexOutOfRange
deriving DecidableEq, Repr

/-- Why a step has no meaning. -/
inductive Refusal where
  /-- An instruction without a meaning; no arm of `exec` raises it. Safe. -/
  | notModelled (mnemonic : String)
  /-- `step` raises it for an ill-formed configuration: no machine exists (60_exceptions.md R211). Safe. -/
  | illFormedConfig
  /-- `step` raises it for a ROM with a cycle of micro-ops without a wait: no such program exists
  (93_implementation_defined.md V7; 42_control.md R155). Safe. -/
  | zeroTimeLoop
  /-- Raised for a move that 60_exceptions.md R215 does not enable, and by WAITS, GAP and DEBOUNCE while their wait runs,
  when no step of theirs is enabled (41_streamer.md R127). Safe: no run of the block makes such a step (log entry 5). -/
  | stepNotEnabled
deriving DecidableEq, Repr

/-- The fields of 10_state.md R21 at the values of R59, with the logs, the ROM and the inputs given. -/
def State.initial (cfg : Config) (rom : Memory) (btn startupOk : Bool) (outLog : List OutEntry)
    (diagLog : List DiagEntry) (hostLog : List HostEntry) (schedule : List Move) : State where
  fgPc := 0
  isrPc := 32
  idx := 0
  passRem := 0
  chA := 0
  chB := 0
  ind := false
  last := false
  en := decide (cfg.variant = .freeRun)
  pend := false
  irqEn := false
  inIsr := false
  slotFull := false
  owned := false
  armed := false
  fgWaitActive := false
  fgWaitRem := 0
  debActive := false
  debRem := 0
  fatal := .noFatal
  time := 0
  btn := btn
  outLog := outLog
  diagLog := diagLog
  cfg := cfg
  rom := rom
  schedule := schedule
  startupOk := startupOk
  hostLog := hostLog

/-- The machine right after power-up (10_state.md R59; 70_reset_and_hazards.md R236 to R238), with the reference
configuration (log entry 2), the canonical ROM, the button released (log entry 7), a startup that succeeds (log entry 6),
empty logs and nothing scheduled. -/
def State.reset : State := State.initial Config.reference [] true true [] [] [] []

end Sys2Proof.Machine
end

