-- ==== Sys2Proof/Machine/Ops.lean ====
section
/-! DEFINITION. The named operations over the micro-program ROM and the fields: fetch, pc advance, logs, fatal conditions,
interrupt entry and return, the waits, the tick, the button latch and reset. -/

namespace Sys2Proof.Machine

/-! ## The micro-program ROM -/

/-- MP_FG, addresses 0..18 (42_control.md R151). -/
def foregroundImage : List Word :=
  [0x0800, 0x1000, 0x1800, 0x200D, 0x2801, 0x3000, 0x3800, 0x4000, 0x4800, 0x5000] ++
  [0x5806, 0x6001, 0x8011, 0x2800, 0x6800, 0x7000, 0x6000, 0x7800, 0x8003]

/-- MP_ISR, addresses 32..37 (43_enable_source.md R181). -/
def handlerImage : List Word := [0x8800, 0x9025, 0x9800, 0xA000, 0xA800, 0xB000]

/-- The canonical ROM image: what an address that `Memory` does not list reads as (30_encoding.md R93). -/
def canonicalWord (a : Nat) : Word :=
  if a < 32 then foregroundImage.getD a 0x0000 else handlerImage.getD (a - 32) 0x0000

/-- The ROM word at address `a`. -/
def Memory.read : Memory → Nat → Word
  | [], a => canonicalWord a
  | (k, v) :: rest, a => if k = a then v else Memory.read rest a

/-- The ROM with word `w` at address `a`, kept in canonical form.
No step does this; it builds another micro-program (60_exceptions.md R210: "a model run on another micro-program"). -/
def Memory.write : Memory → Nat → Word → Memory
  | [], a, w => if w = canonicalWord a then [] else [(a, w)]
  | (k, v) :: rest, a, w =>
    if a < k then
      if w = canonicalWord a then (k, v) :: rest else (a, w) :: (k, v) :: rest
    else if a = k then
      if w = canonicalWord a then rest else (a, w) :: rest
    else (k, v) :: Memory.write rest a w

/-- The canonical form: addresses strictly rising and below 2048, and no word equal to the canonical image's. -/
abbrev Memory.wf (m : Memory) : Prop :=
  (m.map Prod.fst).Pairwise (· < ·) ∧ ∀ c ∈ m, c.1 < 2048 ∧ c.2 ≠ canonicalWord c.1

/-! ## Program counters -/

/-- The pc of a sequencer (10_state.md R23, R24). -/
def pcOf (ctx : Context) (s : State) : Addr :=
  match ctx with
  | .fg => s.fgPc
  | .isr => s.isrPc

/-- `pc <- target` for the executing sequencer (00_scope.md R15). -/
def setPc (ctx : Context) (target : Addr) (s : State) : State :=
  match ctx with
  | .fg => { s with fgPc := target }
  | .isr => { s with isrPc := target }

/-- `pc <- (pc + 1) mod 2048` (30_encoding.md R89). -/
def advance (ctx : Context) (s : State) : State := setPc ctx (pcOf ctx s + 1) s

/-- The word a sequencer fetches (30_encoding.md R87; 20_memory.md R63). -/
def fetchWord (ctx : Context) (s : State) : Word := Memory.read s.rom (pcOf ctx s).toNat

/-! ## Logs -/

/-- `emit(OUT_LOG, e)` (00_scope.md R15). -/
def emitOut (e : OutEntry) (s : State) : State := { s with outLog := s.outLog ++ [e] }

/-- `emit(DIAG_LOG, e)`. -/
def emitDiag (e : DiagEntry) (s : State) : State := { s with diagLog := s.diagLog ++ [e] }

/-! ## Channel writes -/

/-- CHA takes a value, and OUT_LOG records it even when it is unchanged (10_state.md R27, R46). -/
def writeChA (v : Duty) (s : State) : State := emitOut (.chA s.time v) { s with chA := v }

/-- CHB takes a value, and OUT_LOG records it (10_state.md R28, R46). -/
def writeChB (v : Duty) (s : State) : State := emitOut (.chB s.time v) { s with chB := v }

/-- IND takes a value, and OUT_LOG records it (10_state.md R29, R46). -/
def writeInd (v : Bool) (s : State) : State := emitOut (.ind s.time v) { s with ind := v }

/-! ## Fatal conditions, interrupt entry and return -/

/-- `raise Fatal(c)`: FATAL takes the cause and every other field stays, the pc among them (60_exceptions.md R206). -/
def raiseFatal (c : FatalCause) (s : State) : State := { s with fatal := c }

/-- Interrupt entry: IN_ISR set, ISR_PC at the entry vector 32, nothing saved and nothing else touched (60_exceptions.md R214). -/
def enterInterrupt (s : State) : State := { s with inIsr := true, isrPc := 32 }

/-- The return from the handler: it restores nothing, because entry saved nothing (60_exceptions.md R217; 43_enable_source.md R189). -/
def returnFromInterrupt (s : State) : State := { s with inIsr := false }

/-! ## Waits -/

/-- One FG step of a wait of `us` µs: issue, or complete, or no step while it runs (41_streamer.md R127; 42_control.md R159). -/
def waitForeground (us : Nat) (s : State) : Host.Outcome State Fault Refusal :=
  if s.fgWaitActive = false then .next { s with fgWaitActive := true, fgWaitRem := us }
  else if s.fgWaitRem = 0 then .next (advance .fg { s with fgWaitActive := false })
  else .refused .stepNotEnabled

/-- One ISR step of the debounce wait of `us` µs (43_enable_source.md R188). -/
def waitHandler (us : Nat) (s : State) : Host.Outcome State Fault Refusal :=
  if s.debActive = false then .next { s with debActive := true, debRem := us }
  else if s.debRem = 0 then .next (advance .isr { s with debActive := false })
  else .refused .stepNotEnabled

/-- Whether a tick counts the foreground wait down (41_streamer.md R135; 60_exceptions.md R216). -/
def fgWaitCounts (s : State) : Bool :=
  decide (s.fatal = .noFatal) && s.fgWaitActive && decide (0 < s.fgWaitRem) &&
    (decide (s.cfg.waitMode = .elapsed) || !s.inIsr)

/-- Whether a tick counts the debounce wait down (43_enable_source.md R188; 60_exceptions.md R216). -/
def debWaitCounts (s : State) : Bool :=
  decide (s.fatal = .noFatal) && s.debActive && decide (0 < s.debRem)

/-- A tick: T and the waits, all in one step (60_exceptions.md R216). -/
def tick (s : State) : State :=
  { s with
    time := s.time + 1
    fgWaitRem := if fgWaitCounts s then s.fgWaitRem - 1 else s.fgWaitRem
    debRem := if debWaitCounts s then s.debRem - 1 else s.debRem }

/-! ## ENV inputs -/

/-- Whether a change of BTN to `level` is a falling edge that the latch takes (43_enable_source.md R182, R183). -/
def edgeLatches (level : Bool) (s : State) : Bool :=
  s.btn && !level && s.armed && !s.inIsr && decide (s.fatal = .noFatal)

/-- ENV sets BTN; a falling edge may set PEND (43_enable_source.md R182, R183). -/
def setButton (level : Bool) (s : State) : State :=
  { s with btn := level, pend := if edgeLatches level s then true else s.pend }

/-- Reset: the marker with the old T, then every field of R21 but the logs at its reset value (70_reset_and_hazards.md R236).
The configuration and the ROMs stay, and so do the inputs still to come (log entry 17). -/
def applyReset (level : Bool) (s : State) : State :=
  State.initial s.cfg s.rom level s.startupOk (s.outLog ++ [.reset s.time]) s.diagLog s.hostLog s.schedule

end Sys2Proof.Machine
end

