-- ==== Sys2Proof/Machine/Program.lean ====
section
/-! DEFINITION. Which micro-programs exist: a program with a cycle of micro-ops without a wait is refused
(93_implementation_defined.md V7; 42_control.md R155). -/

namespace Sys2Proof.Machine

/-- The addresses a sequencer may go to, in zero time, from address `a` (30_encoding.md R89).
A wait micro-op lets time pass, RETI ends the handler, and an illegal word halts: none of them has such a successor. -/
def zeroTimeNext (ctx : Context) (rom : Memory) (a : Addr) : List Addr :=
  match decode ctx (Memory.read rom a.toNat) with
  | .error _ => []
  | .ok .waits => []
  | .ok .gap => []
  | .ok .debounce => []
  | .ok .reti => []
  | .ok (.jmp target) => [target]
  | .ok (.poll target) => [a + 1, target]
  | .ok (.passnext target) => [a + 1, target]
  | .ok (.test target) => [a + 1, target]
  | .ok .init => [a + 1]
  | .ok .put => [a + 1]
  | .ok .unmask => [a + 1]
  | .ok (.setind _) => [a + 1]
  | .ok .passinit => [a + 1]
  | .ok .wra => [a + 1]
  | .ok .wrb => [a + 1]
  | .ok .inc => [a + 1]
  | .ok (.diag _) => [a + 1]
  | .ok .za => [a + 1]
  | .ok .zb => [a + 1]
  | .ok .take => [a + 1]
  | .ok .toggle => [a + 1]
  | .ok .clear => [a + 1]

/-- The addresses a sequencer can go to in zero time from those in `todo`, added to those already `seen`.
Every address is entered once and has at most two successors, so `loopFuel` steps empty `todo`. -/
def zeroTimeReach (ctx : Context) (rom : Memory) : Nat → List Addr → List Addr → List Addr
  | 0, _, seen => seen
  | _ + 1, [], seen => seen
  | fuel + 1, a :: todo, seen =>
    if seen.contains a then zeroTimeReach ctx rom fuel todo seen
    else zeroTimeReach ctx rom fuel (zeroTimeNext ctx rom a ++ todo) (a :: seen)

/-- Steps enough for `zeroTimeReach` on 2048 addresses. -/
def loopFuel : Nat := 3 * 2048

/-- Whether a sequencer can come back to address `a` in zero time. -/
def comesBack (ctx : Context) (rom : Memory) (a : Addr) : Bool :=
  (zeroTimeReach ctx rom loopFuel (zeroTimeNext ctx rom a) []).contains a

/-- Whether a ROM has a zero-time loop of a sequencer.
The canonical image has none, so a loop of another ROM passes through an address where the two differ. -/
def hasZeroTimeLoop (ctx : Context) (rom : Memory) : Bool := rom.any fun c => comesBack ctx rom (BitVec.ofNat 11 c.1)

/-- The check on a micro-program: no zero-time loop of either sequencer (93_implementation_defined.md V7). -/
def letsTimePass (rom : Memory) : Bool := !hasZeroTimeLoop .fg rom && !hasZeroTimeLoop .isr rom

/-! ## Placing a word where the next step fetches -/

/-- The addresses `placeFetchWord` tries for a word of a sequencer: the one it fetches next, then two that no canonical
micro-op goes to. -/
def placeCandidates (ctx : Context) (s : State) : List Addr :=
  match ctx with
  | .fg => [s.fgPc, 19, 20]
  | .isr => [s.isrPc, 38, 39]

/-- The first candidate where the word makes no zero-time loop. -/
def placeAddress (w : Word) (s : State) : Addr :=
  let ctx := wordContext w
  ((placeCandidates ctx s).find? fun a => letsTimePass (Memory.write s.rom a.toNat w)).getD (pcOf ctx s)

/-- `s` with `w` in the ROM where the sequencer that `w` belongs to fetches next, and that sequencer's step enabled
(60_exceptions.md R215): nothing scheduled, no fatal condition, the right context, and no wait or entry in the way
(log entry 19). -/
def placeFetchWord (w : Word) (s : State) : State :=
  let ctx := wordContext w
  let a := placeAddress w s
  setPc ctx a
    { s with
      rom := Memory.write s.rom a.toNat w
      schedule := []
      fatal := .noFatal
      inIsr := decide (ctx = .isr)
      pend := s.pend && !(decide (ctx = .fg) && s.irqEn)
      fgWaitRem := if ctx = .fg ∧ s.fgWaitActive = true then 0 else s.fgWaitRem
      debRem := if ctx = .isr ∧ s.debActive = true then 0 else s.debRem }

end Sys2Proof.Machine
end

