-- ==== Sys2Proof/Machine/Flags.lean ====
section
/-! DEFINITION. The enabling conditions over the flags (60_exceptions.md R215) and the STATUS word (10_state.md R49).
No micro-op computes an arithmetic flag (10_state.md R43). -/

namespace Sys2Proof.Machine

/-- The value of the FATAL field (60_exceptions.md R207). -/
def FatalCause.code : FatalCause → BitVec 3
  | .noFatal => 0
  | .startupFault => 1
  | .handoffEmpty => 2
  | .illegalMicroOp => 3

/-- `entry_en` (60_exceptions.md R214, R215). -/
def entryEnabled (s : State) : Bool := decide (s.fatal = .noFatal) && s.pend && s.irqEn && !s.inIsr

/-- `isr_en`. -/
def isrEnabled (s : State) : Bool :=
  decide (s.fatal = .noFatal) && s.inIsr && !(s.debActive && decide (0 < s.debRem))

/-- `fg_en`. -/
def fgEnabled (s : State) : Bool :=
  decide (s.fatal = .noFatal) && !s.inIsr && !entryEnabled s && !(s.fgWaitActive && decide (0 < s.fgWaitRem))

/-- Whether an entry, ISR or FG step is enabled. -/
def blockEnabled (s : State) : Bool := entryEnabled s || isrEnabled s || fgEnabled s

/-- `tick_en`: in Ideal only when no entry, ISR or FG step is enabled; in Relaxed always. -/
def tickEnabled (s : State) : Bool := decide (s.cfg.timeMode = .relaxed) || !blockEnabled s

/-- The sequencer's own enabling condition. -/
def contextEnabled (ctx : Context) (s : State) : Bool :=
  match ctx with
  | .fg => fgEnabled s
  | .isr => isrEnabled s

/-- STATUS (10_state.md R49), most significant field first: reserved, ARMED, BTN, VARIANT, FATAL, DEB_ACTIVE,
FG_WAIT_ACTIVE, SLOT_FULL, OWNED, IN_ISR, IRQ_EN, PEND, LAST, IND, EN. -/
def statusWord (s : State) : BusWord :=
  (0 : BitVec 16) ++ BitVec.ofBool s.armed ++ BitVec.ofBool s.btn ++ BitVec.ofBool (decide (s.cfg.variant = .freeRun)) ++
    s.fatal.code ++ BitVec.ofBool s.debActive ++ BitVec.ofBool s.fgWaitActive ++ BitVec.ofBool s.slotFull ++
    BitVec.ofBool s.owned ++ BitVec.ofBool s.inIsr ++ BitVec.ofBool s.irqEn ++ BitVec.ofBool s.pend ++
    BitVec.ofBool s.last ++ BitVec.ofBool s.ind ++ BitVec.ofBool s.en

end Sys2Proof.Machine
end

