-- ==== Sys2Proof/Machine/Bus.lean ====
section
/-! DEFINITION. The observation bus: its map, host reads and host writes (10_state.md R48 to R58; 20_memory.md R64 to R69). -/

namespace Sys2Proof.Machine

/-- A 32-bit word from two 16-bit halves, `hi` in bits 31:16. -/
def pack16 (hi lo : Nat) : BusWord := BitVec.ofNat 16 hi ++ BitVec.ofNat 16 lo

/-- PCS (10_state.md R52): FG_PC in bits 10:0, ISR_PC in bits 26:16. -/
def pcsWord (s : State) : BusWord := (0 : BitVec 5) ++ s.isrPc ++ (0 : BitVec 5) ++ s.fgPc

/-- The word of TABLE_i, `comp` in bits 31:16 and `main` in bits 15:0; 0 for i ≥ N (20_memory.md R65, R77). -/
def tableWordAt (cfg : Config) (i : Nat) : BusWord :=
  match tableEntry cfg i with
  | some (main, comp) => comp ++ main
  | none => 0

/-- The registers at 0x00000..0x00030, by word index; reserved words read 0 (10_state.md R49 to R58; 20_memory.md R65, R76). -/
def registerWord (s : State) (k : Nat) : BusWord :=
  match k with
  | 0 => statusWord s
  | 1 => pack16 s.passRem s.idx
  | 2 => s.chB ++ s.chA
  | 3 => pcsWord s
  | 4 => BitVec.ofNat 32 s.fgWaitRem
  | 5 => BitVec.ofNat 32 s.debRem
  | 6 => pack16 s.cfg.dead s.cfg.n
  | 7 => pack16 s.cfg.fHz s.cfg.fs
  | 8 => BitVec.ofNat 32 s.cfg.sampleUs
  | 9 => BitVec.ofNat 32 s.cfg.gapUs
  | 10 => BitVec.ofNat 32 s.cfg.debounceUs
  | 11 => BitVec.ofNat 32 s.time
  | 12 => BitVec.ofNat 32 (s.time / 2 ^ 32)
  | _ => 0

/-- The word the map gives for a legal address (20_memory.md R65): the registers below 0x40000, the table from 0x40000,
nothing from 0x80000. -/
def busWord (s : State) (addr : Nat) : BusWord :=
  if addr < 0x40000 then registerWord s (addr / 4)
  else if addr < 0x80000 then tableWordAt s.cfg ((addr - 0x40000) / 4)
  else 0

/-- Whether a host read is legal (20_memory.md R64, R68). -/
def readLegal (addr width : Nat) : Bool := decide (width = 4 ∧ addr % 4 = 0 ∧ addr < 0x100000)

/-- `MemRead(addr, width)` (20_memory.md R64). -/
def memRead (s : State) (addr width : Nat) : BusReply :=
  if readLegal addr width then .data (busWord s addr) else .busError

/-- `MemWrite` at any address and width: acknowledged (20_memory.md R66).
DESIGN CHOICE (log entry 24): R66 says so of the observation bus only; at 0x100000 or above the spec gives a write no reply,
and the model acknowledges it too. -/
def memWrite (_addr _width _data : Nat) : BusReply := .acknowledged

/-- Byte `k` of a word, little-endian (20_memory.md R67). -/
def busByte (w : BusWord) (k : Nat) : BitVec 8 := w.extractLsb' (8 * k) 8

/-- A HOST read step: only the host's record changes. -/
def hostRead (addr width : Nat) (s : State) : State :=
  { s with hostLog := s.hostLog ++ [.read addr width (memRead s addr width)] }

/-- A HOST write step: only the host's record changes. -/
def hostWrite (addr width data : Nat) (s : State) : State :=
  { s with hostLog := s.hostLog ++ [.write addr width data (memWrite addr width data)] }

end Sys2Proof.Machine
end

