-- ==== Sys2Proof/Machine/Control.lean ====
section
/-! DEFINITION. The boot and control-loop micro-ops (42_control.md R152 to R155, R159, R164 to R166). All run in FG context. -/

namespace Sys2Proof.Machine

/-- INIT (R164). -/
def execInit (s : State) : Host.Outcome State Fault Refusal :=
  .next (if s.startupOk then advance .fg { s with armed := s.cfg.isToggle || s.armed } else raiseFatal .startupFault s)

/-- PUT (R165). -/
def execPut (s : State) : Host.Outcome State Fault Refusal :=
  .next (advance .fg { s with slotFull := s.cfg.isToggle || s.slotFull })

/-- UNMASK (R166). -/
def execUnmask (s : State) : Host.Outcome State Fault Refusal :=
  .next (advance .fg { s with irqEn := s.cfg.isToggle || s.irqEn })

/-- POLL target (R152). -/
def execPoll (target : Addr) (s : State) : Host.Outcome State Fault Refusal :=
  .next (if s.en then advance .fg s else setPc .fg target s)

/-- SETIND v (R153). -/
def execSetind (v : Bool) (s : State) : Host.Outcome State Fault Refusal := .next (advance .fg (writeInd v s))

/-- DIAG v (R154). -/
def execDiag (v : Bool) (s : State) : Host.Outcome State Fault Refusal :=
  let reported := if s.last ≠ v ∧ s.cfg.verbose = .on then emitDiag ⟨s.time, v⟩ s else s
  .next (advance .fg { reported with last := v })

/-- GAP (R159). -/
def execGap (s : State) : Host.Outcome State Fault Refusal := waitForeground s.cfg.gapUs s

/-- JMP target (R155). -/
def execJmp (target : Addr) (s : State) : Host.Outcome State Fault Refusal := .next (setPc .fg target s)

end Sys2Proof.Machine
end

