-- ==== Sys2Proof/Machine/EnableSource.lean ====
section
/-! DEFINITION. The handler's micro-ops (43_enable_source.md R184 to R189). All run in ISR context. -/

namespace Sys2Proof.Machine

/-- TAKE (R184). -/
def execTake (s : State) : Host.Outcome State Fault Refusal :=
  .next
    (if s.owned then advance .isr s
    else if s.slotFull then advance .isr { s with slotFull := false, owned := true }
    else raiseFatal .handoffEmpty s)

/-- TEST target (R185). -/
def execTest (target : Addr) (s : State) : Host.Outcome State Fault Refusal :=
  .next (if s.pend then advance .isr s else setPc .isr target s)

/-- TOGGLE (R186). -/
def execToggle (s : State) : Host.Outcome State Fault Refusal := .next (advance .isr { s with en := !s.en })

/-- CLEAR (R187). -/
def execClear (s : State) : Host.Outcome State Fault Refusal := .next (advance .isr { s with pend := false })

/-- DEBOUNCE (R188). -/
def execDebounce (s : State) : Host.Outcome State Fault Refusal := waitHandler s.cfg.debounceUs s

/-- RETI (R189): ISR_PC stays until the next entry sets it. -/
def execReti (s : State) : Host.Outcome State Fault Refusal := .next (returnFromInterrupt s)

end Sys2Proof.Machine
end

