-- ==== Sys2Proof/Machine/Streamer.lean ====
section
/-! DEFINITION. The streamer's micro-ops (41_streamer.md R123 to R130). All run in FG context. -/

namespace Sys2Proof.Machine

/-- PASSINIT (R123). -/
def execPassinit (s : State) : Host.Outcome State Fault Refusal :=
  .next (advance .fg { s with passRem := s.cfg.n })

/-- WRA (R124); the table has an entry at every reachable IDX (20_memory.md R62). -/
def execWra (s : State) : Host.Outcome State Fault Refusal :=
  match tableEntry s.cfg s.idx with
  | some (main, _) => .next (advance .fg (writeChA main s))
  | none => .fault .tableIndexOutOfRange

/-- WRB (R125). -/
def execWrb (s : State) : Host.Outcome State Fault Refusal :=
  match tableEntry s.cfg s.idx with
  | some (_, comp) => .next (advance .fg (writeChB comp s))
  | none => .fault .tableIndexOutOfRange

/-- INC (R126). -/
def execInc (s : State) : Host.Outcome State Fault Refusal :=
  .next (advance .fg { s with idx := (s.idx + 1) % s.cfg.n })

/-- WAITS (R127). -/
def execWaits (s : State) : Host.Outcome State Fault Refusal := waitForeground s.cfg.sampleUs s

/-- PASSNEXT target (R128). -/
def execPassnext (target : Addr) (s : State) : Host.Outcome State Fault Refusal :=
  let r := satsub s.passRem 1
  let s' := { s with passRem := r }
  .next (if r = 0 then advance .fg s' else setPc .fg target s')

/-- ZA (R129). -/
def execZa (s : State) : Host.Outcome State Fault Refusal := .next (advance .fg (writeChA 0 s))

/-- ZB (R130). -/
def execZb (s : State) : Host.Outcome State Fault Refusal := .next (advance .fg (writeChB 0 s))

end Sys2Proof.Machine
end

