-- ==== Sys2Proof/Machine/Dispatch.lean ====
section
/-! DEFINITION. One arm per micro-op. -/

namespace Sys2Proof.Machine

def exec (i : Instr) (s : State) : Host.Outcome State Fault Refusal :=
  match i with
  | .init => Sys2Proof.Machine.execInit s
  | .put => Sys2Proof.Machine.execPut s
  | .unmask => Sys2Proof.Machine.execUnmask s
  | .poll target => Sys2Proof.Machine.execPoll target s
  | .setind v => Sys2Proof.Machine.execSetind v s
  | .passinit => Sys2Proof.Machine.execPassinit s
  | .wra => Sys2Proof.Machine.execWra s
  | .wrb => Sys2Proof.Machine.execWrb s
  | .inc => Sys2Proof.Machine.execInc s
  | .waits => Sys2Proof.Machine.execWaits s
  | .passnext target => Sys2Proof.Machine.execPassnext target s
  | .diag v => Sys2Proof.Machine.execDiag v s
  | .za => Sys2Proof.Machine.execZa s
  | .zb => Sys2Proof.Machine.execZb s
  | .gap => Sys2Proof.Machine.execGap s
  | .jmp target => Sys2Proof.Machine.execJmp target s
  | .take => Sys2Proof.Machine.execTake s
  | .test target => Sys2Proof.Machine.execTest target s
  | .toggle => Sys2Proof.Machine.execToggle s
  | .clear => Sys2Proof.Machine.execClear s
  | .debounce => Sys2Proof.Machine.execDebounce s
  | .reti => Sys2Proof.Machine.execReti s

end Sys2Proof.Machine
end

