-- ==== Sys2Proof/Machine/Schedule.lean ====
section
/-! DEFINITION. Which step happens: fetch, decode and execute of a sequencer, the block's own step, the tick, and the moves
of ENV and HOST (30_encoding.md R87; 60_exceptions.md R215, R226). -/

namespace Sys2Proof.Machine

/-- A sequencer's step: fetch, decode, execute, or raise IllegalMicroOp (30_encoding.md R87). -/
def sequencerStep (ctx : Context) (s : State) : Host.Outcome State Fault Refusal :=
  match decode ctx (fetchWord ctx s) with
  | .ok i => exec i s
  | .error _ => .next (raiseFatal .illegalMicroOp s)

/-- The enabled one of interrupt entry, ISR step and FG step (60_exceptions.md R215). -/
def blockStep (s : State) : Host.Outcome State Fault Refusal :=
  if entryEnabled s then .next (enterInterrupt s)
  else if isrEnabled s then sequencerStep .isr s
  else if fgEnabled s then sequencerStep .fg s
  else .refused .stepNotEnabled

/-- A tick, where it is enabled. -/
def tickStep (s : State) : Host.Outcome State Fault Refusal :=
  if tickEnabled s then .next (tick s) else .refused .stepNotEnabled

/-- The step of a block that nothing outside drives: maximal progress, a tick only when no other step is enabled
(60_exceptions.md R215, log entry 4). -/
def unscheduledStep (s : State) : Host.Outcome State Fault Refusal :=
  if blockEnabled s then blockStep s else tickStep s

/-- The step a move asks for. -/
def moveStep (m : Move) (s : State) : Host.Outcome State Fault Refusal :=
  match m with
  | .block => blockStep s
  | .tick => tickStep s
  | .button level => .next (setButton level s)
  | .startup ok => .next { s with startupOk := ok }
  | .reset level => .next (applyReset level s)
  | .hostRead addr width => .next (hostRead addr width s)
  | .hostWrite addr width data => .next (hostWrite addr width data s)

/-- The next step of the run: the first scheduled move, or the block's own step when nothing is scheduled. -/
def scheduledStep (s : State) : Host.Outcome State Fault Refusal :=
  match s.schedule with
  | [] => unscheduledStep s
  | m :: rest => moveStep m { s with schedule := rest }

end Sys2Proof.Machine
end

