-- ==== Sys2Proof/Machine/Step.lean ====
section
/-! DEFINITION. One step of SPWM-TG. -/

namespace Sys2Proof.Machine

/-- One step (00_scope.md R16).
No machine exists for an ill-formed configuration (60_exceptions.md R211), and no program with a zero-time loop
(93_implementation_defined.md V7). -/
def step (s : State) : Host.Outcome State Fault Refusal :=
  if s.cfg.wf then
    if letsTimePass s.rom then scheduledStep s else .refused .zeroTimeLoop
  else .refused .illFormedConfig

/-- The step relation on blocks, with the configuration and the ROM as its parameters (00_scope.md R8). -/
def stepWith (cfg : Config) (rom : Memory) (b : Block) : Host.Outcome Block Fault Refusal :=
  match step { toBlock := b, cfg := cfg, rom := rom } with
  | .next t => .next t.toBlock
  | .fault r => .fault r
  | .refused r => .refused r

/-- `s` with the word stored where the next step fetches it (log entry 19). -/
def State.withFetchWord (s : State) (nbits w : Nat) : State := placeFetchWord (tableWord nbits w) s

end Sys2Proof.Machine
end

