-- ==== Sys2Proof/Machine/Assembler.lean ====
section
/-! DEFINITION. The assembler syntax and its pseudo-instructions (30_encoding.md R91, R92).
A source is a list of lines and a line a list of characters.
The conventions R91 leaves open are in log entry 18. -/

namespace Sys2Proof.Machine

/-- A piece of source text. -/
abbrev Text := List Char

/-- Why the assembler refuses a source. The first four are R91's own. -/
inductive AsmError where
  /-- A form-V operand other than 0 or 1. -/
  | valueNotABit
  /-- A form-T operand outside 0..2047. -/
  | targetOutOfRange
  /-- An undefined label. -/
  | undefinedLabel
  /-- An operand on a form-N micro-op or on a pseudo-instruction. -/
  | unexpectedOperand
  | missingOperand
  | unknownMnemonic
  | malformedLine
  /-- A micro-op placed beyond address 2047, or a `.org` beyond it. -/
  | addressOutOfRange
  /-- Two micro-ops at one address. -/
  | addressTaken
  /-- One label defined twice. -/
  | labelTaken
deriving DecidableEq, Repr

/-- A parsed line. -/
structure AsmLine where
  label    : Option Text
  mnemonic : Option Text
  operand  : Option Text
deriving DecidableEq, Repr

/-- What a mnemonic stands for: the three operand forms of R82, the pseudo-instructions of R92, and the directive. -/
inductive AsmForm where
  | plain (i : Instr)
  | value (i : Bool → Instr)
  | target (i : Addr → Instr)
  | adv
  | idle
  | pass
  | org

/-- A placed micro-op: one whose operand is known, or a branch whose target is still text. -/
inductive AsmItem where
  | known (i : Instr)
  | branch (i : Addr → Instr) (target : Text)

/-! ## Lines -/

/-- The text before the comment. -/
def dropComment (line : Text) : Text := line.takeWhile (· ≠ ';')

/-- Adds a character to the tokens of the text that follows it; `fresh` says that the following text begins a new token. -/
def consToken (c : Char) : Bool × List Text → Bool × List Text
  | (fresh, ts) =>
    if c = ' ' ∨ c = '\t' then (true, ts)
    else match fresh, ts with
      | false, t :: rest => (false, (c :: t) :: rest)
      | _, _ => (false, [c] :: ts)

/-- The blank-separated tokens of a text. -/
def tokens (t : Text) : List Text := (t.foldr consToken (true, [])).2

/-- A label token without its colon. -/
def labelOf (token : Text) : Option Text :=
  match token.reverse with
  | ':' :: name => if name = [] then none else some name.reverse
  | _ => none

/-- `[label:] MNEMONIC [operand] [; comment]`, with the mnemonic in capitals (R91); a line may also hold only a label, or
nothing.
DESIGN CHOICE (log entry 18): R91 allows any letter case for the mnemonics of R84, and says nothing of `.org` and of the
pseudo-instructions; the model allows it for them too. -/
def parseLine (line : Text) : Except AsmError AsmLine :=
  let ts := tokens (dropComment line)
  let label := ts.head?.bind labelOf
  match if label.isSome then ts.tail else ts with
  | [] => .ok ⟨label, none, none⟩
  | [m] => .ok ⟨label, some (m.map Char.toUpper), none⟩
  | [m, x] => .ok ⟨label, some (m.map Char.toUpper), some x⟩
  | _ => .error .malformedLine

/-! ## Numbers -/

/-- The value of a decimal or hexadecimal digit. -/
def digitValue (base : Nat) (c : Char) : Option Nat :=
  let v :=
    if '0' ≤ c ∧ c ≤ '9' then c.toNat - '0'.toNat
    else if 'a' ≤ c ∧ c ≤ 'f' then c.toNat - 'a'.toNat + 10
    else if 'A' ≤ c ∧ c ≤ 'F' then c.toNat - 'A'.toNat + 10
    else base
  if v < base then some v else none

/-- The value of a text of digits. -/
def digitsValue (base : Nat) : Text → Nat → Option Nat
  | [], acc => some acc
  | c :: rest, acc =>
    match digitValue base c with
    | some v => digitsValue base rest (base * acc + v)
    | none => none

/-- A decimal or `0x` hexadecimal number (R91). -/
def parseNumber : Text → Option Nat
  | [] => none
  | ['0', 'x'] => none
  | '0' :: 'x' :: ds => digitsValue 16 ds 0
  | ds => digitsValue 10 ds 0

/-! ## Mnemonics -/

/-- The form-N mnemonics of R84. -/
def plainForms : List (String × AsmForm) :=
  [ ("INIT", .plain .init), ("PUT", .plain .put), ("UNMASK", .plain .unmask), ("PASSINIT", .plain .passinit),
    ("WRA", .plain .wra), ("WRB", .plain .wrb), ("INC", .plain .inc), ("WAITS", .plain .waits), ("ZA", .plain .za),
    ("ZB", .plain .zb), ("GAP", .plain .gap), ("TAKE", .plain .take), ("TOGGLE", .plain .toggle),
    ("CLEAR", .plain .clear), ("DEBOUNCE", .plain .debounce), ("RETI", .plain .reti) ]

/-- The form-V and form-T mnemonics of R84, the pseudo-instructions of R92 and the directive of R91. -/
def operandForms : List (String × AsmForm) :=
  [ ("SETIND", .value .setind), ("DIAG", .value .diag), ("POLL", .target .poll), ("PASSNEXT", .target .passnext),
    ("JMP", .target .jmp), ("TEST", .target .test), ("ADV", .adv), ("IDLE", .idle), ("PASS", .pass), (".ORG", .org) ]

/-- What each mnemonic stands for. -/
def mnemonicForms : List (String × AsmForm) := plainForms ++ operandForms

/-- The micro-ops of `ADV` (R92). -/
def advItems : List Instr := [.wra, .wrb, .inc, .waits]

/-- The micro-ops of `IDLE` (R92). -/
def idleItems : List Instr := [.za, .zb]

/-- The micro-ops of `PASS` placed at address `a`: its fresh label is the address after PASSINIT (R92). -/
def passItems (a : Nat) : List Instr := [.passinit] ++ advItems ++ [.passnext (BitVec.ofNat 11 (a + 1))]

/-- The micro-ops of one statement at address `a`. -/
def expand (form : AsmForm) (operand : Option Text) (a : Nat) : Except AsmError (List AsmItem) :=
  match form, operand with
  | .plain i, none => .ok [.known i]
  | .value i, some ['0'] => .ok [.known (i false)]
  | .value i, some ['1'] => .ok [.known (i true)]
  | .value _, some _ => .error .valueNotABit
  | .target i, some t => .ok [.branch i t]
  | .adv, none => .ok (advItems.map .known)
  | .idle, none => .ok (idleItems.map .known)
  | .pass, none => .ok ((passItems a).map .known)
  | .value _, none => .error .missingOperand
  | .target _, none => .error .missingOperand
  | .org, _ => .ok []
  | _, some _ => .error .unexpectedOperand

/-! ## Placement -/

/-- The assembler's position: the next address, the labels waiting for a micro-op, the labels placed, the micro-ops placed
(last first). -/
structure AsmState where
  addr    : Nat
  waiting : List Text
  labels  : List (Text × Nat)
  items   : List (Nat × AsmItem)

/-- Places one micro-op at the next address; the waiting labels name it (R91). -/
def placeItem (item : AsmItem) (st : AsmState) : Except AsmError AsmState :=
  if 2048 ≤ st.addr then .error .addressOutOfRange
  else if st.items.any (·.1 == st.addr) then .error .addressTaken
  else .ok
    { addr := st.addr + 1
      waiting := []
      labels := st.labels ++ st.waiting.map (·, st.addr)
      items := (st.addr, item) :: st.items }

/-- Places micro-ops at consecutive addresses (R91). -/
def placeItems : List AsmItem → AsmState → Except AsmError AsmState
  | [], st => .ok st
  | item :: rest, st => (placeItem item st).bind (placeItems rest)

/-- Adds the label of a line to those waiting. -/
def addLabel (label : Option Text) (st : AsmState) : Except AsmError AsmState :=
  match label with
  | none => .ok st
  | some l =>
    if st.waiting.contains l || st.labels.any (·.1 == l) then .error .labelTaken
    else .ok { st with waiting := st.waiting ++ [l] }

/-- `.org a` (R91).
DESIGN CHOICE (log entry 18): `a` is a number; R91 does not say whether it may be a label, and any other operand is a
malformed line. -/
def setOrigin (operand : Option Text) (st : AsmState) : Except AsmError AsmState :=
  match operand.bind parseNumber with
  | some a => if a < 2048 then .ok { st with addr := a } else .error .addressOutOfRange
  | none => .error .malformedLine

/-- One statement: a directive, a micro-op or a pseudo-instruction. -/
def placeStatement (mnemonic : Text) (operand : Option Text) (st : AsmState) : Except AsmError AsmState :=
  match mnemonicForms.lookup (String.ofList mnemonic) with
  | none => .error .unknownMnemonic
  | some .org => setOrigin operand st
  | some form => (expand form operand st.addr).bind (placeItems · st)

/-- One line. -/
def placeLine (line : AsmLine) (st : AsmState) : Except AsmError AsmState :=
  (addLabel line.label st).bind fun st =>
    match line.mnemonic with
    | none => .ok st
    | some m => placeStatement m line.operand st

/-- All lines. -/
def placeLines : List Text → AsmState → Except AsmError AsmState
  | [], st => .ok st
  | line :: rest, st => (parseLine line).bind fun l => (placeLine l st).bind (placeLines rest)

/-! ## Targets -/

/-- The address a form-T operand names: a number 0..2047, or a label (R91). -/
def resolveTarget (labels : List (Text × Nat)) (t : Text) : Except AsmError Addr :=
  match parseNumber t with
  | some a => if a < 2048 then .ok (BitVec.ofNat 11 a) else .error .targetOutOfRange
  | none =>
    match labels.lookup t with
    | some a => .ok (BitVec.ofNat 11 a)
    | none => .error .undefinedLabel

/-- The word of a placed micro-op. -/
def itemWord (labels : List (Text × Nat)) : AsmItem → Except AsmError Word
  | .known i => .ok (encode i)
  | .branch i t => (resolveTarget labels t).map fun a => encode (i a)

/-- The words of placed micro-ops, in the order given. -/
def itemWords (labels : List (Text × Nat)) : List (Nat × AsmItem) → Except AsmError (List (Nat × Word))
  | [] => .ok []
  | (a, item) :: rest =>
    (itemWord labels item).bind fun w => (itemWords labels rest).map fun ws => (a, w) :: ws

/-- The assembler: the words a source places, in source order, or why it is refused (R91, R92).
DESIGN CHOICE (log entry 18): a source that has no `.org` before its first micro-op starts at address 0; R91 says only that
addresses are consecutive. -/
def assemble (source : List Text) : Except AsmError (List (Nat × Word)) :=
  (placeLines source ⟨0, [], [], []⟩).bind fun st => itemWords st.labels st.items.reverse

/-- The ROM that holds the given words and 0x0000 everywhere else (10_state.md R45). -/
def programRom (words : List (Nat × Word)) : Memory :=
  words.foldl (fun m p => Memory.write m p.1 p.2) ((List.range 38).foldl (fun m a => Memory.write m a 0x0000) [])

end Sys2Proof.Machine
end

