-- ==== Sys2Proof/Safety.lean ====
section
/-! DEFINITION. What counts as a good state and a good run, in the terms the statements use. -/

namespace Sys2Proof.Machine

/-! ## Runs -/

/-- `k` steps, stopping at the first fault or refusal. -/
def runSteps : Nat → State → Host.Outcome State Fault Refusal
  | 0, s => .next s
  | k + 1, s =>
    match step s with
    | .next t => runSteps k t
    | .fault r => .fault r
    | .refused r => .refused r

/-- The machine exists: its configuration is well formed (60_exceptions.md R211) and its micro-program lets time pass
(93_implementation_defined.md V7). -/
abbrev State.Admitted (s : State) : Prop := s.cfg.wf = true ∧ letsTimePass s.rom = true

/-- Some number of steps leads from `s` to `t`. -/
def Reaches (s t : State) : Prop := ∃ k, runSteps k s = .next t

/-- `t` occurs in a run of the block from power-up, under some schedule of ENV, HOST and the scheduler. -/
def Reachable (cfg : Config) (rom : Memory) (t : State) : Prop :=
  ∃ btn ok schedule, Reaches (State.initial cfg rom btn ok [] [] [] schedule) t

/-- ENV asserts reset in the next step. -/
def ResetNext (s : State) : Prop := ∃ level rest, s.schedule = .reset level :: rest

/-- The next step is the block's own: nothing is scheduled, or a `block` move is; `rest` is the schedule after it. -/
def BlockNext (s : State) (rest : List Move) : Prop := s.schedule = .block :: rest ∨ (s.schedule = [] ∧ rest = [])

/-- The steps that fairness covers: those of the two sequencers and the tick (60_exceptions.md R215, R225).
DESIGN CHOICE (log entry 26): R225 asks for fairness to ENV-independent steps and does not list them; R226 lists the tick
under ENV, but without it R225's own example of a claim fails, in a run where time stands still. -/
inductive OwnStep where
  | entry
  | isr
  | fg
  | tick
deriving DecidableEq, Repr

/-- When 60_exceptions.md R215 enables such a step. -/
def OwnStep.enabled : OwnStep → State → Bool
  | .entry => entryEnabled
  | .isr => isrEnabled
  | .fg => fgEnabled
  | .tick => tickEnabled

/-- The move that takes such a step. -/
def OwnStep.move : OwnStep → Move
  | .entry => .block
  | .isr => .block
  | .fg => .block
  | .tick => .tick

/-- An infinite run of 60_exceptions.md R215: at every point one enabled step, chosen by the scheduler, ENV or HOST. -/
structure InfiniteRun (run : Nat → State) (moves : Nat → Move) : Prop where
  nothing_left : ∀ k, (run k).schedule = []
  next : ∀ k, step { run k with schedule := [moves k] } = .next (run (k + 1))

/-- Weak fairness (60_exceptions.md R225): no step of `OwnStep` stays enabled for ever without being taken.
DEDUCED (log entry 25): each kind by itself. -/
def WeaklyFair (run : Nat → State) (moves : Nat → Move) : Prop :=
  ∀ (o : OwnStep) (k : Nat), ∃ j, k ≤ j ∧
    (o.enabled (run j) = false ∨ (o.enabled (run j) = true ∧ moves j = o.move))

/-- A function on the next state, applied to an outcome. -/
def mapNext (f : State → State) : Host.Outcome State Fault Refusal → Host.Outcome State Fault Refusal
  | .next s => .next (f s)
  | .fault r => .fault r
  | .refused r => .refused r

/-- The same state under another VERBOSE and with another diagnostic log (42_control.md R162). -/
def State.withVerbosity (v : Verbosity) (d : List DiagEntry) (s : State) : State :=
  { s with cfg := { s.cfg with verbose := v }, diagLog := d }

/-- The fields that 43_enable_source.md R181 puts out of the handler's reach, taken from another state. -/
def State.withForegroundOf (u s : State) : State :=
  { s with
    fgPc := u.fgPc, idx := u.idx, passRem := u.passRem, chA := u.chA, chB := u.chB, ind := u.ind, last := u.last
    fgWaitActive := u.fgWaitActive, fgWaitRem := u.fgWaitRem, outLog := u.outLog, diagLog := u.diagLog }

/-! ## The state invariant, for every micro-program -/

/-- The bounds of 10_state.md R25, R26, R38, R39, the address a wait keeps (R23), the canonical ROM form, and the
FreeRun constants of 42_control.md R161. -/
structure State.Inv (s : State) : Prop where
  cfg_wf : s.cfg.wf = true
  rom_wf : Memory.wf s.rom
  lets_time_pass : letsTimePass s.rom = true
  idx_lt : s.idx < s.cfg.n
  pass_le : s.passRem ≤ s.cfg.n
  fg_wait_idle : s.fgWaitActive = false → s.fgWaitRem = 0
  fg_wait_bound : s.fgWaitRem < 2 ^ 32
  fg_wait_place : s.fgWaitActive = true →
    decode .fg (fetchWord .fg s) = .ok .waits ∨ decode .fg (fetchWord .fg s) = .ok .gap
  deb_idle : s.debActive = false → s.debRem = 0
  deb_bound : s.debRem < 2 ^ 32
  deb_place : s.debActive = true → s.inIsr = true ∧ decode .isr (fetchWord .isr s) = .ok .debounce
  free_run : s.cfg.variant = .freeRun →
    s.en = true ∧ s.armed = false ∧ s.irqEn = false ∧ s.pend = false ∧ s.inIsr = false ∧ s.slotFull = false ∧
      s.owned = false

/-! ## The canonical micro-programs -/

/-- What holds between the steps of a block that runs the canonical micro-programs: the boot order of 42_control.md R163,
the hand-off of 43_enable_source.md R184, the handler's edge condition (R185), and no fatal condition but StartupFault
(60_exceptions.md R208 to R210). -/
structure State.CanonicalInv (s : State) : Prop where
  inv : s.Inv
  rom : s.rom = []
  fg_pc : s.fgPc.toNat ≤ 18
  isr_pc : 32 ≤ s.isrPc.toNat ∧ s.isrPc.toNat ≤ 37
  fatal : s.fatal = .noFatal ∨ (s.fatal = .startupFault ∧ s.fgPc = 0)
  boot : s.fgPc.toNat ≤ 2 → s.irqEn = false ∧ s.inIsr = false ∧ s.chA = 0 ∧ s.chB = 0 ∧ s.ind = false
  put_done : s.cfg.variant = .toggle → 2 ≤ s.fgPc.toNat → s.slotFull = true ∨ s.owned = true
  handler_owns : s.inIsr = true → s.isrPc ≠ 32 → s.owned = true
  edge_kept : s.inIsr = true → s.isrPc.toNat ≤ 35 → s.pend = true
  edge_cleared : s.inIsr = true → 36 ≤ s.isrPc.toNat → s.pend = false

/-- A pair of duty values that is a table entry, or the idle pair (41_streamer.md R134). -/
def IsPair (cfg : Config) (a b : Duty) : Prop := (a = 0 ∧ b = 0) ∨ ∃ i, tableEntry cfg i = some (a, b)

/-- The streamer's position and outputs, by the address of the next foreground micro-op: the index and pass counter
(41_streamer.md R133, R136) and the pairing of the two channels (R134). -/
structure State.StreamInv (s : State) : Prop where
  canonical : s.CanonicalInv
  between_passes : s.fgPc.toNat ≤ 5 ∨ 11 ≤ s.fgPc.toNat → s.idx = 0
  before_inc : 6 ≤ s.fgPc.toNat ∧ s.fgPc.toNat ≤ 8 → 1 ≤ s.passRem ∧ s.idx + s.passRem = s.cfg.n
  after_inc : s.fgPc.toNat = 9 ∨ s.fgPc.toNat = 10 →
    1 ≤ s.passRem ∧ s.idx = (s.cfg.n + 1 - s.passRem) % s.cfg.n
  paired : s.fgPc ≠ 7 → s.fgPc ≠ 15 → IsPair s.cfg s.chA s.chB
  fresh_pair : s.fgPc = 8 → tableEntry s.cfg s.idx = some (s.chA, s.chB)
  torn_main : s.fgPc = 7 → ∃ comp, tableEntry s.cfg s.idx = some (s.chA, comp)
  torn_zero : s.fgPc = 15 → s.chA = 0

/-! ## Whole passes -/

/-- The OUT_LOG entries of advance `k` of a pass that starts at time `t` (41_streamer.md R137). -/
def advanceEntries (cfg : Config) (t k : Nat) : List OutEntry :=
  match tableEntry cfg k with
  | some (main, comp) => [.chA (t + k * cfg.sampleUs) main, .chB (t + k * cfg.sampleUs) comp]
  | none => []

/-- The OUT_LOG entries of a whole pass that starts at time `t` (41_streamer.md R137). -/
def passEntries (cfg : Config) (t : Nat) : List OutEntry := (List.range cfg.n).flatMap (advanceEntries cfg t)

/-- The block runs the canonical micro-programs in Ideal time, with nothing scheduled, no fatal condition, no handler and no
interrupt entry in the way, and the foreground between two micro-ops (41_streamer.md R137). -/
structure State.Undisturbed (s : State) : Prop where
  cfg_wf : s.cfg.wf = true
  ideal : s.cfg.timeMode = .ideal
  rom : s.rom = []
  schedule : s.schedule = []
  fatal : s.fatal = .noFatal
  no_handler : s.inIsr = false
  no_entry : s.pend = false ∨ s.irqEn = false
  no_wait : s.fgWaitActive = false
  no_rem : s.fgWaitRem = 0
  no_debounce : s.debActive = false

/-! ## The handler -/

/-- A handler invocation of the canonical MP_ISR that entered while EN was `e`: EN is `e` up to TOGGLE and its negation
after it, PEND is set up to CLEAR and clear after it, and the resource is at hand (43_enable_source.md R190). -/
structure State.HandlerPhase (e : Bool) (s : State) : Prop where
  rom : s.rom = []
  fatal : s.fatal = .noFatal
  in_isr : s.inIsr = true
  resource : s.owned = true ∨ (s.slotFull = true ∧ s.isrPc = 32)
  phase :
    ((s.isrPc = 32 ∨ s.isrPc = 33 ∨ s.isrPc = 34) ∧ s.en = e ∧ s.pend = true) ∨
    (s.isrPc = 35 ∧ s.en = !e ∧ s.pend = true) ∨
    ((s.isrPc = 36 ∨ s.isrPc = 37) ∧ s.en = !e ∧ s.pend = false)

/-! ## Programs that let time pass -/

/-- A micro-program without a cycle that takes no time: some rank falls along every zero-time move
(42_control.md R155; 93_implementation_defined.md V7). -/
def ZenoFree (ctx : Context) (rom : Memory) : Prop :=
  ∃ rank : Addr → Nat, ∀ a b, b ∈ zeroTimeNext ctx rom a → rank b < rank a

end Sys2Proof.Machine
end

