-- ==== Sys2Proof/Certificates/Slice0/Obligations.lean ====
section
/-! DEFINITION. The statements for the provers, in the order of spec/. -/

open Sys2Proof Sys2Proof.Machine

/-! ## Configuration and scope -/

/-- 00_scope.md R11 and 60_exceptions.md R211: the well-formedness conditions, and the refusal of everything else. -/
def Obligations.IllFormedConfigurationsAreRefused : Prop :=
  (∀ cfg : Config, cfg.wf = true ↔
    (1 ≤ cfg.n ∧ cfg.n ≤ 65535) ∧ (1 ≤ cfg.fHz ∧ cfg.fHz ≤ 65535) ∧ (1 ≤ cfg.fs ∧ cfg.fs ≤ 65535) ∧
    cfg.dead ≤ 65535 ∧ cfg.fHz * cfg.n ≤ 1000000 ∧
    (1 ≤ cfg.gapUs ∧ cfg.gapUs < 1000000 / (cfg.fHz * cfg.n)) ∧ cfg.gapUs < 2 ^ 32 ∧ cfg.debounceUs < 2 ^ 32) ∧
  ∀ s : State, s.cfg.wf = false → step s = .refused .illFormedConfig

/-- 41_streamer.md R122: floor division, and an interval of at least 1 µs. -/
def Obligations.SampleIntervalIsTheFloorOfThePeriod : Prop :=
  ∀ cfg : Config, cfg.wf = true →
    1 ≤ cfg.sampleUs ∧ cfg.sampleUs * (cfg.fHz * cfg.n) ≤ 1000000 ∧
      1000000 < (cfg.sampleUs + 1) * (cfg.fHz * cfg.n)

/-! ## Encoding -/

/-- 30_encoding.md R93: the canonical ROM, its words and what they decode to, and 0x0000 elsewhere. -/
def Obligations.CanonicalRomHoldsTheMicroPrograms : Prop :=
  (List.range 19).map (fun a => (Memory.read [] a, decode .fg (Memory.read [] a))) =
    ([(0x0800, .ok .init), (0x1000, .ok .put), (0x1800, .ok .unmask), (0x200D, .ok (.poll 13)),
      (0x2801, .ok (.setind true)), (0x3000, .ok .passinit), (0x3800, .ok .wra), (0x4000, .ok .wrb),
      (0x4800, .ok .inc), (0x5000, .ok .waits), (0x5806, .ok (.passnext 6)), (0x6001, .ok (.diag true)),
      (0x8011, .ok (.jmp 17)), (0x2800, .ok (.setind false)), (0x6800, .ok .za), (0x7000, .ok .zb),
      (0x6000, .ok (.diag false)), (0x7800, .ok .gap), (0x8003, .ok (.jmp 3))] :
        List (Word × Except Illegal Instr)) ∧
  [32, 33, 34, 35, 36, 37].map (fun a => (Memory.read [] a, decode .isr (Memory.read [] a))) =
    ([(0x8800, .ok .take), (0x9025, .ok (.test 37)), (0x9800, .ok .toggle), (0xA000, .ok .clear),
      (0xA800, .ok .debounce), (0xB000, .ok .reti)] : List (Word × Except Illegal Instr)) ∧
  ∀ a, (19 ≤ a ∧ a < 32) ∨ 38 ≤ a → Memory.read [] a = 0x0000

/-- 30_encoding.md R81 to R88: decode and encode agree on every word, in both directions. -/
def Obligations.DecodeAndEncodeAgree : Prop :=
  ∀ (ctx : Context) (w : Word) (i : Instr), decode ctx w = .ok i ↔ encode i = w ∧ i.context = ctx

/-- 30_encoding.md R88: decode is total; the illegal words of each context, and what every other word decodes to. -/
def Obligations.DecodeIsTotalAndRefusesTheIllegalWords : Prop :=
  ∀ (ctx : Context) (w : Word),
    let op := w.toNat / 2048
    let a := w.toNat % 2048
    let illegal :=
      op = 0 ∨ 0x17 ≤ op ∨ (ctx = .fg ∧ 0x11 ≤ op) ∨ (ctx = .isr ∧ op ≤ 0x10) ∨
      (op ∈ [0x05, 0x0C] ∧ a / 2 ≠ 0) ∨ (op ∉ [0x05, 0x0C] ∧ op ∉ [0x04, 0x0B, 0x10, 0x12] ∧ a ≠ 0)
    (illegal → ∃ e, decode ctx w = .error e) ∧
    (¬illegal →
      decode ctx w = .ok
        (match op with
        | 0x01 => .init
        | 0x02 => .put
        | 0x03 => .unmask
        | 0x04 => .poll (BitVec.ofNat 11 a)
        | 0x05 => .setind (a == 1)
        | 0x06 => .passinit
        | 0x07 => .wra
        | 0x08 => .wrb
        | 0x09 => .inc
        | 0x0A => .waits
        | 0x0B => .passnext (BitVec.ofNat 11 a)
        | 0x0C => .diag (a == 1)
        | 0x0D => .za
        | 0x0E => .zb
        | 0x0F => .gap
        | 0x10 => .jmp (BitVec.ofNat 11 a)
        | 0x11 => .take
        | 0x12 => .test (BitVec.ofNat 11 a)
        | 0x13 => .toggle
        | 0x14 => .clear
        | 0x15 => .debounce
        | _ => .reti))

/-- 30_encoding.md R91, R92: the canonical source, written with the pseudo-instructions ADV and IDLE, assembles to the ROM
image; and the four refusals of R91. That a source without `.org` starts at 0 is the model's choice (log entry 18). -/
def Obligations.AssemblerYieldsTheCanonicalImage : Prop :=
  assemble
    (["init", "put", "unmask ; boot", "loop: POLL paused", "SETIND 1", "PASSINIT", "adv: ADV", "PASSNEXT adv", "DIAG 1",
      "JMP gap", "paused: SETIND 0", "IDLE", "DIAG 0", "gap: GAP", "JMP loop", ".org 32", "TAKE", "TEST done", "TOGGLE",
      "CLEAR", "DEBOUNCE", "done: RETI"].map String.toList) =
    .ok ((List.range 19 ++ [32, 33, 34, 35, 36, 37]).map fun a => (a, Memory.read [] a)) ∧
  assemble ["PASS".toList] =
    .ok [(0, 0x3000), (1, 0x3800), (2, 0x4000), (3, 0x4800), (4, 0x5000), (5, 0x5801)] ∧
  assemble ["SETIND 2".toList] = .error .valueNotABit ∧
  assemble ["JMP 2048".toList] = .error .targetOutOfRange ∧
  assemble ["JMP nowhere".toList] = .error .undefinedLabel ∧
  assemble ["WRA 0".toList] = .error .unexpectedOperand

/-! ## Which step happens -/

/-- 30_encoding.md R87: a sequencer's step is fetch, decode and execute, or IllegalMicroOp. -/
def Obligations.StepFetchesDecodesAndExecutes : Prop :=
  ∀ (s : State) (rest : List Move), s.Admitted → BlockNext s rest →
    (fgEnabled s = true →
      (∀ i, decode .fg (Memory.read s.rom s.fgPc.toNat) = .ok i → step s = exec i { s with schedule := rest }) ∧
      (∀ e, decode .fg (Memory.read s.rom s.fgPc.toNat) = .error e →
        step s = .next { s with schedule := rest, fatal := .illegalMicroOp })) ∧
    (isrEnabled s = true →
      (∀ i, decode .isr (Memory.read s.rom s.isrPc.toNat) = .ok i → step s = exec i { s with schedule := rest }) ∧
      (∀ e, decode .isr (Memory.read s.rom s.isrPc.toNat) = .error e →
        step s = .next { s with schedule := rest, fatal := .illegalMicroOp }))

/-- 60_exceptions.md R214: what an interrupt entry does, and that nothing else starts the handler. -/
def Obligations.InterruptEntryStartsTheHandler : Prop :=
  (∀ (s : State) (rest : List Move), s.Admitted → BlockNext s rest →
    s.fatal = .noFatal → s.pend = true → s.irqEn = true → s.inIsr = false →
    step s = .next { s with schedule := rest, inIsr := true, isrPc := 32 }) ∧
  ∀ s t : State, step s = .next t → s.inIsr = false → t.inIsr = true →
    s.fatal = .noFatal ∧ s.pend = true ∧ s.irqEn = true

/-- 60_exceptions.md R215: the enabling conditions exclude one another, and a scheduled tick or block move is a step exactly
when R215 enables it; the moves of ENV and HOST always are.
That a move which is not enabled is refused is log entry 5. -/
def Obligations.EnabledStepsExcludeOneAnother : Prop :=
  (∀ s : State,
    ¬(entryEnabled s = true ∧ isrEnabled s = true) ∧ ¬(entryEnabled s = true ∧ fgEnabled s = true) ∧
      ¬(isrEnabled s = true ∧ fgEnabled s = true)) ∧
  (∀ (s : State) (rest : List Move), s.Admitted → s.schedule = .tick :: rest →
    ((∃ t, step s = .next t) ↔
      (s.cfg.timeMode = .relaxed ∨
        ¬(entryEnabled s = true ∨ isrEnabled s = true ∨ fgEnabled s = true)))) ∧
  (∀ (s : State) (rest : List Move), s.Admitted → s.schedule = .block :: rest →
    ¬(entryEnabled s = true ∨ isrEnabled s = true ∨ fgEnabled s = true) → step s = .refused .stepNotEnabled) ∧
  ∀ (s : State) (m : Move) (rest : List Move), s.Admitted → s.schedule = m :: rest → m ≠ .tick → m ≠ .block →
    ∃ t, step s = .next t

/-- 60_exceptions.md R216: a tick. -/
def Obligations.TickAdvancesTimeAndWaits : Prop :=
  ∀ (s : State) (rest : List Move), s.Admitted →
    (s.schedule = .tick :: rest ∨ (s.schedule = [] ∧ rest = [] ∧
      ¬(entryEnabled s = true ∨ isrEnabled s = true ∨ fgEnabled s = true))) →
    (s.cfg.timeMode = .relaxed ∨ ¬(entryEnabled s = true ∨ isrEnabled s = true ∨ fgEnabled s = true)) →
    ∃ t, step s = .next t ∧
      t = { s with
        schedule := rest
        time := s.time + 1
        fgWaitRem := t.fgWaitRem
        debRem := t.debRem } ∧
      (s.fatal = .noFatal ∧ s.fgWaitActive = true ∧ 0 < s.fgWaitRem ∧ (s.cfg.waitMode = .elapsed ∨ s.inIsr = false) →
        t.fgWaitRem = s.fgWaitRem - 1) ∧
      (¬(s.fatal = .noFatal ∧ s.fgWaitActive = true ∧ 0 < s.fgWaitRem ∧
          (s.cfg.waitMode = .elapsed ∨ s.inIsr = false)) → t.fgWaitRem = s.fgWaitRem) ∧
      (s.fatal = .noFatal ∧ s.debActive = true ∧ 0 < s.debRem → t.debRem = s.debRem - 1) ∧
      (¬(s.fatal = .noFatal ∧ s.debActive = true ∧ 0 < s.debRem) → t.debRem = s.debRem)

/-- 43_enable_source.md R183: the edge latch. -/
def Obligations.EdgeLatchTakesArmedFallingEdges : Prop :=
  ∀ (s : State) (level : Bool) (rest : List Move), s.Admitted → s.schedule = .button level :: rest →
    (s.btn = true ∧ level = false ∧ s.armed = true ∧ s.inIsr = false ∧ s.fatal = .noFatal →
      step s = .next { s with schedule := rest, btn := level, pend := true }) ∧
    (¬(s.btn = true ∧ level = false ∧ s.armed = true ∧ s.inIsr = false ∧ s.fatal = .noFatal) →
      step s = .next { s with schedule := rest, btn := level })

/-! ## Reset and fatal conditions -/

/-- 70_reset_and_hazards.md R236, 10_state.md R59: reset, in any state. -/
def Obligations.ResetAppendsTheMarkerAndRestoresTheState : Prop :=
  ∀ (s : State) (level : Bool) (rest : List Move), s.Admitted → s.schedule = .reset level :: rest →
    ∃ t, step s = .next t ∧
      t.outLog = s.outLog ++ [.reset s.time] ∧ t.diagLog = s.diagLog ∧ t.cfg = s.cfg ∧ t.rom = s.rom ∧
      t.fgPc = 0 ∧ t.isrPc = 32 ∧ t.idx = 0 ∧ t.passRem = 0 ∧ t.chA = 0 ∧ t.chB = 0 ∧ t.ind = false ∧ t.last = false ∧
      (t.en = true ↔ s.cfg.variant = .freeRun) ∧ t.pend = false ∧ t.irqEn = false ∧ t.inIsr = false ∧
      t.slotFull = false ∧ t.owned = false ∧ t.armed = false ∧ t.fgWaitActive = false ∧ t.fgWaitRem = 0 ∧
      t.debActive = false ∧ t.debRem = 0 ∧ t.fatal = .noFatal ∧ t.time = 0 ∧ t.btn = level

/-- 70_reset_and_hazards.md R238: the mode and the mask after reset, for every configuration; no entry can occur and no edge
is latched.
The last two clauses say which state the model starts from: configuration, button and startup outcome are the model's choice
(log entries 2, 6, 7). -/
def Obligations.ResetStateIsMaskedAndDisarmed : Prop :=
  (∀ (cfg : Config) (rom : Memory) (btn ok : Bool) (out : List OutEntry) (dia : List DiagEntry)
      (host : List HostEntry) (sched : List Move) (level : Bool),
    let s := State.initial cfg rom btn ok out dia host sched
    s.inIsr = false ∧ s.irqEn = false ∧ s.armed = false ∧
      (cfg.variant = .toggle → s.en = false ∧ s.last = false) ∧ (cfg.variant = .freeRun → s.en = true) ∧
      entryEnabled s = false ∧ edgeLatches level s = false) ∧
  State.reset = State.initial Config.reference [] true true [] [] [] [] ∧
  decode .fg (fetchWord .fg State.reset) = .ok .init

/-- 10_state.md R40: a fatal state stays fatal until reset, no sequencer steps in it, and nothing but T, BTN and what the
outside holds moves (60_exceptions.md R206). -/
def Obligations.FatalStateHoldsUntilReset : Prop :=
  (FatalCause.code .noFatal = 0 ∧ FatalCause.code .startupFault = 1 ∧ FatalCause.code .handoffEmpty = 2 ∧
    FatalCause.code .illegalMicroOp = 3) ∧
  (∀ s : State, s.fatal ≠ .noFatal → entryEnabled s = false ∧ isrEnabled s = false ∧ fgEnabled s = false) ∧
  ∀ s t : State, s.fatal ≠ .noFatal → ¬ResetNext s → step s = .next t →
    t = { s with
      time := t.time, btn := t.btn, schedule := t.schedule, startupOk := t.startupOk, hostLog := t.hostLog } ∧
    (t.time = s.time ∨ t.time = s.time + 1)

/-! ## The observation bus -/

/-- 20_memory.md R64, R66, R68: host accesses change no state of the block; only the host's own record grows
(the record is log entry 8; the reply to a write at 0x100000 or above is log entry 24). -/
def Obligations.HostAccessesChangeNothing : Prop :=
  (∀ (s : State) (addr width : Nat) (rest : List Move), s.Admitted → s.schedule = .hostRead addr width :: rest →
    (width = 4 ∧ addr % 4 = 0 ∧ addr < 0x100000 →
      step s = .next { s with schedule := rest, hostLog := s.hostLog ++ [.read addr width (.data (busWord s addr))] }) ∧
    (¬(width = 4 ∧ addr % 4 = 0 ∧ addr < 0x100000) →
      step s = .next { s with schedule := rest, hostLog := s.hostLog ++ [.read addr width .busError] })) ∧
  ∀ (s : State) (addr width data : Nat) (rest : List Move), s.Admitted →
    s.schedule = .hostWrite addr width data :: rest →
    step s = .next { s with schedule := rest, hostLog := s.hostLog ++ [.write addr width data .acknowledged] }

/-- 10_state.md R49: the fields of STATUS. -/
def Obligations.StatusRegisterFields : Prop :=
  ∀ s : State, ∃ w, memRead s 0x00000 4 = .data w ∧
    w.getLsbD 0 = s.en ∧ w.getLsbD 1 = s.ind ∧ w.getLsbD 2 = s.last ∧ w.getLsbD 3 = s.pend ∧
    w.getLsbD 4 = s.irqEn ∧ w.getLsbD 5 = s.inIsr ∧ w.getLsbD 6 = s.owned ∧ w.getLsbD 7 = s.slotFull ∧
    w.getLsbD 8 = s.fgWaitActive ∧ w.getLsbD 9 = s.debActive ∧ w.extractLsb' 10 3 = s.fatal.code ∧
    w.getLsbD 13 = decide (s.cfg.variant = .freeRun) ∧ w.getLsbD 14 = s.btn ∧ w.getLsbD 15 = s.armed ∧
    w.extractLsb' 16 16 = 0

/-- 10_state.md R50 to R58: the other registers, in every state that meets the invariant. -/
def Obligations.ObservationRegistersShowTheState : Prop :=
  ∀ s : State, s.Inv →
    ∃ position duty pcs fgWait debWait cfg0 cfg1 cfg2 cfg3 cfg4 timeLo timeHi,
      memRead s 0x00004 4 = .data position ∧ (position.extractLsb' 0 16).toNat = s.idx ∧
        (position.extractLsb' 16 16).toNat = s.passRem ∧
      memRead s 0x00008 4 = .data duty ∧ duty.extractLsb' 0 16 = s.chA ∧ duty.extractLsb' 16 16 = s.chB ∧
      memRead s 0x0000C 4 = .data pcs ∧ pcs.extractLsb' 0 11 = s.fgPc ∧ pcs.extractLsb' 11 5 = 0 ∧
        pcs.extractLsb' 16 11 = s.isrPc ∧ pcs.extractLsb' 27 5 = 0 ∧
      memRead s 0x00010 4 = .data fgWait ∧ fgWait.toNat = s.fgWaitRem ∧
      memRead s 0x00014 4 = .data debWait ∧ debWait.toNat = s.debRem ∧
      memRead s 0x00018 4 = .data cfg0 ∧ (cfg0.extractLsb' 0 16).toNat = s.cfg.n ∧
        (cfg0.extractLsb' 16 16).toNat = s.cfg.dead ∧
      memRead s 0x0001C 4 = .data cfg1 ∧ (cfg1.extractLsb' 0 16).toNat = s.cfg.fs ∧
        (cfg1.extractLsb' 16 16).toNat = s.cfg.fHz ∧
      memRead s 0x00020 4 = .data cfg2 ∧ cfg2.toNat = s.cfg.sampleUs ∧
      memRead s 0x00024 4 = .data cfg3 ∧ cfg3.toNat = s.cfg.gapUs ∧
      memRead s 0x00028 4 = .data cfg4 ∧ cfg4.toNat = s.cfg.debounceUs ∧
      memRead s 0x0002C 4 = .data timeLo ∧ timeLo.toNat = s.time % 2 ^ 32 ∧
      memRead s 0x00030 4 = .data timeHi ∧ timeHi.toNat = s.time / 2 ^ 32 % 2 ^ 32

/-- 20_memory.md R65, R76, R77: the table window and the reserved addresses. -/
def Obligations.TableWindowAndReservedAddresses : Prop :=
  (∀ (s : State) (i : Nat) (main comp : Duty), i < 65536 → tableEntry s.cfg i = some (main, comp) →
    memRead s (0x40000 + 4 * i) 4 = .data (comp ++ main)) ∧
  (∀ (s : State) (i : Nat), s.cfg.n ≤ i → i < 65536 → memRead s (0x40000 + 4 * i) 4 = .data 0) ∧
  ∀ (s : State) (addr : Nat), addr % 4 = 0 → (0x34 ≤ addr ∧ addr ≤ 0x3FFFC) ∨ (0x80000 ≤ addr ∧ addr ≤ 0xFFFFC) →
    memRead s addr 4 = .data 0

/-- 20_memory.md R67: byte k of a word is its bits 8k+7:8k, so the bytes of DUTY spell CHA and then CHB. -/
def Obligations.BusBytesAreLittleEndian : Prop :=
  (∀ (w : BusWord) (k j : Nat), k < 4 → j < 8 → (busByte w k).getLsbD j = w.getLsbD (8 * k + j)) ∧
  ∀ (s : State) (w : BusWord), memRead s 0x00008 4 = .data w →
    busByte w 1 ++ busByte w 0 = s.chA ∧ busByte w 3 ++ busByte w 2 = s.chB

/-! ## The micro-ops -/

/-- 42_control.md R164, R165, R166: INIT for both startup outcomes, PUT and UNMASK, in both variants, with their words. -/
def Obligations.BootMicroOpsActInToggleOnly : Prop :=
  (decode .fg 0x0800 = .ok .init ∧ decode .fg 0x1000 = .ok .put ∧ decode .fg 0x1800 = .ok .unmask) ∧
  ∀ s : State,
    (s.startupOk = true → s.cfg.variant = .toggle →
      exec .init s = .next { s with armed := true, fgPc := s.fgPc + 1 }) ∧
    (s.startupOk = true → s.cfg.variant = .freeRun → exec .init s = .next { s with fgPc := s.fgPc + 1 }) ∧
    (s.startupOk = false → exec .init s = .next { s with fatal := .startupFault }) ∧
    (s.cfg.variant = .toggle →
      exec .put s = .next { s with slotFull := true, fgPc := s.fgPc + 1 } ∧
      exec .unmask s = .next { s with irqEn := true, fgPc := s.fgPc + 1 }) ∧
    (s.cfg.variant = .freeRun →
      exec .put s = .next { s with fgPc := s.fgPc + 1 } ∧ exec .unmask s = .next { s with fgPc := s.fgPc + 1 })

/-- 41_streamer.md R123, R126, R128: PASSINIT, INC and PASSNEXT, with INC's wrap and PASSNEXT's saturation. -/
def Obligations.PassCountersCountAndWrap : Prop :=
  ∀ (s : State) (target : Addr),
    (decode .fg 0x3000 = .ok .passinit ∧ decode .fg 0x4800 = .ok .inc ∧
      decode .fg (0x5800 ||| target.setWidth 16) = .ok (.passnext target)) ∧
    exec .passinit s = .next { s with passRem := s.cfg.n, fgPc := s.fgPc + 1 } ∧
    (s.idx + 1 < s.cfg.n → exec .inc s = .next { s with idx := s.idx + 1, fgPc := s.fgPc + 1 }) ∧
    (s.idx + 1 = s.cfg.n → exec .inc s = .next { s with idx := 0, fgPc := s.fgPc + 1 }) ∧
    (∀ r, s.passRem = r + 2 → exec (.passnext target) s = .next { s with passRem := r + 1, fgPc := target }) ∧
    (s.passRem ≤ 1 → exec (.passnext target) s = .next { s with passRem := 0, fgPc := s.fgPc + 1 })

/-- 41_streamer.md R124, R125, R129, R130: the words and effects of the four channel writes, each logged
whatever the old value. -/
def Obligations.ChannelWritesAreLogged : Prop :=
  (decode .fg 0x3800 = .ok .wra ∧ decode .fg 0x4000 = .ok .wrb ∧ decode .fg 0x6800 = .ok .za ∧
    decode .fg 0x7000 = .ok .zb) ∧
  ∀ s : State,
    (s.idx < s.cfg.n → ∃ main comp, tableEntry s.cfg s.idx = some (main, comp) ∧
      exec .wra s = .next { s with chA := main, outLog := s.outLog ++ [.chA s.time main], fgPc := s.fgPc + 1 } ∧
      exec .wrb s = .next { s with chB := comp, outLog := s.outLog ++ [.chB s.time comp], fgPc := s.fgPc + 1 }) ∧
    exec .za s = .next { s with chA := 0, outLog := s.outLog ++ [.chA s.time 0], fgPc := s.fgPc + 1 } ∧
    exec .zb s = .next { s with chB := 0, outLog := s.outLog ++ [.chB s.time 0], fgPc := s.fgPc + 1 }

/-- 41_streamer.md R127, R135, 42_control.md R159: the words of the foreground waits, their issue, countdown and completion. -/
def Obligations.ForegroundWaitsIssueAndComplete : Prop :=
  (decode .fg 0x5000 = .ok .waits ∧ decode .fg 0x7800 = .ok .gap) ∧
  ∀ s : State,
    (s.fgWaitActive = false →
      exec .waits s = .next { s with fgWaitActive := true, fgWaitRem := 1000000 / (s.cfg.fHz * s.cfg.n) } ∧
      exec .gap s = .next { s with fgWaitActive := true, fgWaitRem := s.cfg.gapUs }) ∧
    (s.fgWaitActive = true → s.fgWaitRem = 0 →
      exec .waits s = .next { s with fgWaitActive := false, fgPc := s.fgPc + 1 } ∧
      exec .gap s = .next { s with fgWaitActive := false, fgPc := s.fgPc + 1 }) ∧
    (s.fgWaitActive = true → 0 < s.fgWaitRem → fgEnabled s = false) ∧
    (s.fgWaitActive = true → 0 < s.fgWaitRem → s.fatal = .noFatal →
      (s.cfg.waitMode = .elapsed ∨ s.inIsr = false → (tick s).fgWaitRem = s.fgWaitRem - 1) ∧
      (s.cfg.waitMode = .executed → s.inIsr = true → (tick s).fgWaitRem = s.fgWaitRem))

/-- 42_control.md R152, R155, 43_enable_source.md R185: the branches. -/
def Obligations.BranchesTestTheirBit : Prop :=
  ∀ (s : State) (target : Addr),
    (decode .fg (0x2000 ||| target.setWidth 16) = .ok (.poll target) ∧
      decode .fg (0x8000 ||| target.setWidth 16) = .ok (.jmp target) ∧
      decode .isr (0x9000 ||| target.setWidth 16) = .ok (.test target)) ∧
    exec (.jmp target) s = .next { s with fgPc := target } ∧
    (s.en = true → exec (.poll target) s = .next { s with fgPc := s.fgPc + 1 }) ∧
    (s.en = false → exec (.poll target) s = .next { s with fgPc := target }) ∧
    (s.pend = true → exec (.test target) s = .next { s with isrPc := s.isrPc + 1 }) ∧
    (s.pend = false → exec (.test target) s = .next { s with isrPc := target })

/-- 42_control.md R153, R154: SETIND always logs; DIAG reports a transition once, and only when VERBOSE is On. -/
def Obligations.IndicatorAndDiagnostics : Prop :=
  ∀ (s : State) (v : Bool),
    (decode .fg (0x2800 ||| (BitVec.ofBool v).setWidth 16) = .ok (.setind v) ∧
      decode .fg (0x6000 ||| (BitVec.ofBool v).setWidth 16) = .ok (.diag v)) ∧
    exec (.setind v) s = .next { s with ind := v, outLog := s.outLog ++ [.ind s.time v], fgPc := s.fgPc + 1 } ∧
    (s.last ≠ v → s.cfg.verbose = .on →
      exec (.diag v) s = .next { s with last := v, diagLog := s.diagLog ++ [⟨s.time, v⟩], fgPc := s.fgPc + 1 }) ∧
    (s.last = v ∨ s.cfg.verbose = .off → exec (.diag v) s = .next { s with last := v, fgPc := s.fgPc + 1 })

/-- 43_enable_source.md R184: TAKE, first invocation, later invocations, and HandoffEmpty. -/
def Obligations.TakeMovesTheResourceOnce : Prop :=
  decode .isr 0x8800 = .ok .take ∧
  ∀ s : State,
    (s.owned = true → exec .take s = .next { s with isrPc := s.isrPc + 1 }) ∧
    (s.owned = false → s.slotFull = true →
      exec .take s = .next { s with slotFull := false, owned := true, isrPc := s.isrPc + 1 }) ∧
    (s.owned = false → s.slotFull = false → exec .take s = .next { s with fatal := .handoffEmpty })

/-- 43_enable_source.md R186, R187, R189: TOGGLE, CLEAR and RETI. -/
def Obligations.ToggleClearAndReturn : Prop :=
  (decode .isr 0x9800 = .ok .toggle ∧ decode .isr 0xA000 = .ok .clear ∧ decode .isr 0xB000 = .ok .reti) ∧
  ∀ s : State,
    exec .toggle s = .next { s with en := !s.en, isrPc := s.isrPc + 1 } ∧
    exec .clear s = .next { s with pend := false, isrPc := s.isrPc + 1 } ∧
    exec .reti s = .next { s with inIsr := false }

/-- 43_enable_source.md R188: the debounce wait. -/
def Obligations.DebounceIssuesAndCompletes : Prop :=
  decode .isr 0xA800 = .ok .debounce ∧
  ∀ s : State,
    (s.debActive = false →
      exec .debounce s = .next { s with debActive := true, debRem := s.cfg.debounceUs }) ∧
    (s.debActive = true → s.debRem = 0 →
      exec .debounce s = .next { s with debActive := false, isrPc := s.isrPc + 1 }) ∧
    (s.debActive = true → 0 < s.debRem → isrEnabled s = false ∧
      (s.fatal = .noFatal → (tick s).debRem = s.debRem - 1))

/-- The forms on which the model stops: a table read beyond the table (log entry 10) and a wait micro-op asked to step while
its wait runs, when R215 enables no step of it (log entry 5). -/
def Obligations.FormsThatStop : Prop :=
  ∀ s : State,
    (s.cfg.n ≤ s.idx → exec .wra s = .fault .tableIndexOutOfRange ∧ exec .wrb s = .fault .tableIndexOutOfRange) ∧
    (s.fgWaitActive = true → 0 < s.fgWaitRem →
      exec .waits s = .refused .stepNotEnabled ∧ exec .gap s = .refused .stepNotEnabled) ∧
    (s.debActive = true → 0 < s.debRem → exec .debounce s = .refused .stepNotEnabled)

/-! ## Frames and single writers -/

/-- 00_scope.md R8, 20_memory.md R63: no step changes the configuration, or the micro-program ROM at any address; so the
steps of a machine are those of its block under `stepWith`, which takes both as parameters. -/
def Obligations.NoStepWritesRomOrConfiguration : Prop :=
  (∀ s t : State, step s = .next t → t.cfg = s.cfg ∧ ∀ a, Memory.read t.rom a = Memory.read s.rom a) ∧
  ∀ (cfg : Config) (rom : Memory) (b : Block),
    (∀ b', stepWith cfg rom b = .next b' ↔
      step { toBlock := b, cfg := cfg, rom := rom } = .next { toBlock := b', cfg := cfg, rom := rom }) ∧
    (∀ r, stepWith cfg rom b = .fault r ↔ step { toBlock := b, cfg := cfg, rom := rom } = .fault r) ∧
    ∀ r, stepWith cfg rom b = .refused r ↔ step { toBlock := b, cfg := cfg, rom := rom } = .refused r

/-- 10_state.md R31, 43_enable_source.md R194: EN changes only at reset and by an ISR step of TOGGLE. -/
def Obligations.EnableFlagHasOneWriter : Prop :=
  ∀ s t : State, step s = .next t → ¬ResetNext s → t.en ≠ s.en →
    isrEnabled s = true ∧ decode .isr (fetchWord .isr s) = .ok .toggle ∧ t.en = !s.en

/-- 10_state.md R27, R28, R29: CHA, CHB and IND change only by their own micro-ops. -/
def Obligations.OutputsChangeOnlyByTheirMicroOps : Prop :=
  ∀ s t : State, step s = .next t → ¬ResetNext s →
    (t.chA ≠ s.chA → fgEnabled s = true ∧
      (decode .fg (fetchWord .fg s) = .ok .wra ∨ decode .fg (fetchWord .fg s) = .ok .za)) ∧
    (t.chB ≠ s.chB → fgEnabled s = true ∧
      (decode .fg (fetchWord .fg s) = .ok .wrb ∨ decode .fg (fetchWord .fg s) = .ok .zb)) ∧
    (t.ind ≠ s.ind → fgEnabled s = true ∧ ∃ v, decode .fg (fetchWord .fg s) = .ok (.setind v))

/-- 43_enable_source.md R181: an ISR micro-op neither reads nor writes the foreground's fields: with those fields taken from
any other state, it does the same to the rest and leaves them as they are. -/
def Obligations.HandlerNeitherReadsNorWritesForegroundState : Prop :=
  ∀ (i : Instr) (s u : State), i.context = .isr →
    exec i (u.withForegroundOf s) = mapNext u.withForegroundOf (exec i s)

/-- 60_exceptions.md R214: the foreground's micro-ops touch only fields disjoint from the handler's. -/
def Obligations.ForegroundKeepsHandlerState : Prop :=
  ∀ (i : Instr) (s t : State), i.context = .fg → exec i s = .next t →
    t.isrPc = s.isrPc ∧ t.en = s.en ∧ t.pend = s.pend ∧ t.inIsr = s.inIsr ∧ t.owned = s.owned ∧
      t.debActive = s.debActive ∧ t.debRem = s.debRem ∧ t.time = s.time ∧ t.btn = s.btn ∧
      (i ≠ .put → t.slotFull = s.slotFull) ∧ (i ≠ .init → t.armed = s.armed) ∧ (i ≠ .unmask → t.irqEn = s.irqEn)

/-- 10_state.md R46: the logs are append-only, over every step, reset among them. -/
def Obligations.LogsOnlyGrow : Prop :=
  ∀ s t : State, step s = .next t →
    s.outLog <+: t.outLog ∧ t.outLog.length ≤ s.outLog.length + 1 ∧
      s.diagLog <+: t.diagLog ∧ t.diagLog.length ≤ s.diagLog.length + 1

/-- 10_state.md R41: only a tick changes T, by one, and a tick changes nothing else but the waits. -/
def Obligations.OnlyATickMovesTime : Prop :=
  ∀ s t : State, step s = .next t → ¬ResetNext s → t.time ≠ s.time →
    t = { s with
      schedule := t.schedule, time := s.time + 1, fgWaitRem := t.fgWaitRem, debRem := t.debRem } ∧
    s.fgWaitRem ≤ t.fgWaitRem + 1 ∧ s.debRem ≤ t.debRem + 1

/-- 60_exceptions.md R227: in both time modes a foreground wait lasts at least its length: what is left of it plus T never
falls, and it ends only when nothing is left. -/
def Obligations.WaitsLastAtLeastTheirLength : Prop :=
  ∀ s t : State, step s = .next t → ¬ResetNext s → s.fgWaitActive = true →
    (t.fgWaitActive = true → s.fgWaitRem + s.time ≤ t.fgWaitRem + t.time) ∧
    (t.fgWaitActive = false → s.fgWaitRem = 0 ∧ t.time = s.time)

/-- 42_control.md R162: VERBOSE changes DIAG_LOG and nothing else. -/
def Obligations.VerbosityChangesOnlyTheDiagnostics : Prop :=
  ∀ (s : State) (v : Verbosity) (d : List DiagEntry),
    (∀ t, step s = .next t → ∃ d', step (s.withVerbosity v d) = .next (t.withVerbosity v d')) ∧
    (∀ r, step s = .fault r → step (s.withVerbosity v d) = .fault r) ∧
    (∀ r, step s = .refused r → step (s.withVerbosity v d) = .refused r)

/-! ## Invariants -/

/-- The state invariant, the boot and hand-off invariant and the streamer invariant hold at power-up, for every well-formed
configuration and every schedule. -/
def Obligations.PowerUpMeetsTheInvariants : Prop :=
  State.reset.StreamInv ∧
  ∀ (cfg : Config) (btn ok : Bool) (sched : List Move), cfg.wf = true →
    (State.initial cfg [] btn ok [] [] [] sched).StreamInv ∧
    ∀ rom, Memory.wf rom → letsTimePass rom = true → (State.initial cfg rom btn ok [] [] [] sched).Inv

/-- 10_state.md R23, R25, R26, R38, R39, 42_control.md R161: every step keeps the state invariant, on every micro-program. -/
def Obligations.StepKeepsTheStateInvariant : Prop :=
  ∀ s t : State, s.Inv → step s = .next t → t.Inv

/-- 42_control.md R163, 60_exceptions.md R208 to R210: every step of the canonical programs keeps the boot, hand-off and
handler invariant. -/
def Obligations.StepKeepsTheCanonicalInvariant : Prop :=
  ∀ s t : State, s.CanonicalInv → step s = .next t → t.CanonicalInv

/-- 41_streamer.md R133, R134, R136: every step of the canonical programs keeps the index, pass and pairing invariant. -/
def Obligations.StepKeepsTheStreamInvariant : Prop :=
  ∀ s t : State, s.StreamInv → step s = .next t → t.StreamInv

/-- 60_exceptions.md R212, 42_control.md R167: with nothing scheduled, the block always has a next state, on every
micro-program. -/
def Obligations.BlockNeverStops : Prop :=
  ∀ s : State, s.Inv → s.schedule = [] → ∃ t, step s = .next t

/-- 42_control.md R161: in FreeRun, under every schedule and on every micro-program, EN stays 1 and no interrupt is armed,
pending, unmasked or entered. -/
def Obligations.FreeRunNeverInterrupts : Prop :=
  ∀ (cfg : Config) (rom : Memory) (t : State), cfg.wf = true → Memory.wf rom → cfg.variant = .freeRun →
    Reachable cfg rom t → t.en = true ∧ t.armed = false ∧ t.pend = false ∧ t.irqEn = false ∧ t.inIsr = false

/-- 60_exceptions.md R208, R209, R210: on the canonical programs the only fatal condition is StartupFault, and it leaves the
outputs at zero. -/
def Obligations.CanonicalProgramsFailOnlyAtStartup : Prop :=
  ∀ (cfg : Config) (t : State), cfg.wf = true → Reachable cfg [] t →
    t.fatal = .noFatal ∨
    (t.fatal = .startupFault ∧ t.fgPc = 0 ∧ t.chA = 0 ∧ t.chB = 0 ∧ t.ind = false)

/-- 41_streamer.md R136: in the canonical program IDX = 0 whenever FG_PC = 3. -/
def Obligations.IndexIsZeroAtPoll : Prop :=
  ∀ (cfg : Config) (t : State), cfg.wf = true → Reachable cfg [] t → t.fgPc = 3 → t.idx = 0

/-- 41_streamer.md R134: outside the two torn points the channels hold a table entry or the idle pair, and at the torn points
CHA alone is new. -/
def Obligations.ObservablePairsAreTableEntries : Prop :=
  ∀ (cfg : Config) (t : State), cfg.wf = true → Reachable cfg [] t →
    (t.fgPc ≠ 7 → t.fgPc ≠ 15 → (t.chA = 0 ∧ t.chB = 0) ∨ ∃ i, tableEntry cfg i = some (t.chA, t.chB)) ∧
    (t.fgPc = 8 → tableEntry cfg t.idx = some (t.chA, t.chB)) ∧
    (t.fgPc = 7 → ∃ comp, tableEntry cfg t.idx = some (t.chA, comp)) ∧
    (t.fgPc = 15 → t.chA = 0)

/-- 93_implementation_defined.md V7, on 42_control.md R155: the canonical programs have no cycle that takes no time; the check
on a ROM finds such a cycle of either sequencer exactly where there is one, and a ROM that has one is refused; `JMP a` at an
address a is an instance (what counts as a loop: log entry 13). -/
def Obligations.OnlyProgramsThatLetTimePassRun : Prop :=
  (ZenoFree .fg [] ∧ ZenoFree .isr []) ∧
  (∀ rom : Memory, letsTimePass rom = false ↔
    ∃ ctx a, Relation.TransGen (fun x y => y ∈ zeroTimeNext ctx rom x) a a) ∧
  (∀ s : State, s.cfg.wf = true → letsTimePass s.rom = false → step s = .refused .zeroTimeLoop) ∧
  ∀ a : Addr, letsTimePass (Memory.write [] a.toNat (encode (.jmp a))) = false

/-! ## Composite behaviour -/

/-- 42_control.md R158: the first iteration after power-up in Toggle, eight micro-ops at T = 0. -/
def Obligations.BootRunsIntoThePausedLoop : Prop :=
  ∀ (cfg : Config) (btn : Bool), cfg.wf = true → cfg.variant = .toggle →
    let s := State.initial cfg [] btn true [] [] [] []
    runSteps 8 s = .next
      { s with
        fgPc := 17, armed := true, slotFull := true, irqEn := true
        outLog := [.ind 0 false, .chA 0 0, .chB 0 0] }

/-- 42_control.md R156: one Paused iteration. -/
def Obligations.PausedIterationHoldsTheOutputsAtZero : Prop :=
  ∀ s : State, s.Undisturbed → s.fgPc = 3 → s.en = false →
    Reaches s
      { s with
        time := s.time + s.cfg.gapUs
        ind := false, chA := 0, chB := 0, last := false
        outLog := s.outLog ++ [.ind s.time false, .chA s.time 0, .chB s.time 0]
        diagLog := if s.last = true ∧ s.cfg.verbose = .on then s.diagLog ++ [⟨s.time, false⟩] else s.diagLog }

/-- 41_streamer.md R137: one Running iteration streams the whole table, one pair every SAMPLE_US, and comes back to POLL
after the gap. -/
def Obligations.RunningIterationStreamsTheTable : Prop :=
  ∀ s : State, s.Undisturbed → s.fgPc = 3 → s.en = true → s.idx = 0 →
    ∃ main comp, tableEntry s.cfg (s.cfg.n - 1) = some (main, comp) ∧
      Reaches s
        { s with
          time := s.time + s.cfg.n * s.cfg.sampleUs + s.cfg.gapUs
          ind := true, chA := main, chB := comp, last := true, passRem := 0
          outLog := s.outLog ++ [.ind s.time true] ++ passEntries s.cfg s.time
          diagLog :=
            if s.last = false ∧ s.cfg.verbose = .on then
              s.diagLog ++ [⟨s.time + s.cfg.n * s.cfg.sampleUs, true⟩]
            else s.diagLog }

/-- 60_exceptions.md R225: "every pass is eventually written" is a claim on infinite weakly fair runs, and holds of them in
FreeRun, in both time modes: past the startup, with no reset, every entry of the table comes onto the channels again and
again (that fairness is for each kind of step is log entry 25; that it covers the tick is the model's choice, log entry 26). -/
def Obligations.EveryPassIsEventuallyWritten : Prop :=
  ∀ (run : Nat → State) (moves : Nat → Move),
    InfiniteRun run moves → WeaklyFair run moves → (∀ k level, moves k ≠ .reset level) →
    (run 0).StreamInv → (run 0).cfg.variant = .freeRun → (run 0).fatal = .noFatal → (run 0).fgPc ≠ 0 →
    ∀ (i : Nat), i < (run 0).cfg.n → ∀ k, ∃ j, k ≤ j ∧ (run j).fgPc = 8 ∧ (run j).idx = i ∧
      tableEntry (run 0).cfg i = some ((run j).chA, (run j).chB)

/-- 43_enable_source.md R190, 41_streamer.md R135: one handler invocation, from the entry to RETI, and what it leaves of a
foreground wait in progress. -/
def Obligations.HandlerInvocationTogglesOnce : Prop :=
  ∀ s : State, s.cfg.wf = true → s.cfg.timeMode = .ideal → s.rom = [] → s.schedule = [] →
    s.fatal = .noFatal → s.pend = true → s.irqEn = true → s.inIsr = false →
    (s.owned = true ∨ s.slotFull = true) → s.debActive = false → s.debRem = 0 →
    Reaches s
      { s with
        isrPc := 37
        en := !s.en, pend := false, owned := true
        slotFull := if s.owned = true then s.slotFull else false
        time := s.time + s.cfg.debounceUs
        fgWaitRem :=
          if s.fgWaitActive = true ∧ s.cfg.waitMode = .elapsed then s.fgWaitRem - s.cfg.debounceUs
          else s.fgWaitRem }

/-- 43_enable_source.md R183, R190, R191: whatever ENV does to the button while the handler runs, the invocation toggles EN
exactly once and returns with no edge pending. -/
def Obligations.BounceInsideTheHandlerIsCollapsed : Prop :=
  ∀ (e : Bool) (s t : State), s.HandlerPhase e → ¬ResetNext s → step s = .next t →
    (t.inIsr = true → t.HandlerPhase e) ∧ (t.inIsr = false → t.en = !e ∧ t.pend = false)

/-! ## The table -/

/-- 40_generator.md R110: the table ROM is generate(N, DEAD), with the exact real sine, round half up and per-channel
saturating dead-time. -/
def Obligations.TableIsTheExactRoundedSine : Prop :=
  ∀ cfg : Config, cfg.wf = true →
    ∃ table, generate cfg.fs cfg.n cfg.dead = some table ∧ table.length = cfg.n ∧
      ∀ i, i < cfg.n → ∃ main comp : Duty,
        table[i]? = some (main, comp) ∧ tableEntry cfg i = some (main, comp) ∧
        let raw : ℤ := ⌊(Real.sin (2 * Real.pi * i / cfg.n) + 1) * ((cfg.fs : ℝ) / 2) + 1 / 2⌋
        (main.toNat : ℤ) = max (raw - cfg.dead) 0 ∧ (comp.toNat : ℤ) = max (max (cfg.fs - raw) 0 - cfg.dead) 0

/-- 40_generator.md R112: the range of an entry. -/
def Obligations.EntriesStayBelowFullScaleLessDeadTime : Prop :=
  ∀ (cfg : Config) (i : Nat) (main comp : Duty), cfg.wf = true → tableEntry cfg i = some (main, comp) →
    main.toNat ≤ satsub cfg.fs cfg.dead ∧ comp.toNat ≤ satsub cfg.fs cfg.dead

/-- 40_generator.md R113: the corrected dead-time invariant. -/
def Obligations.PairSumsFollowTheDeadTime : Prop :=
  ∀ (cfg : Config) (i : Nat) (main comp : Duty), cfg.wf = true → tableEntry cfg i = some (main, comp) →
    let mraw := mainRaw cfg.n cfg.fs i
    let craw := compRaw cfg.n cfg.fs i
    mraw + craw = cfg.fs ∧
    (cfg.dead ≤ mraw → cfg.dead ≤ craw → main.toNat + comp.toNat = cfg.fs - 2 * cfg.dead) ∧
    (craw < cfg.dead → cfg.dead ≤ mraw → main.toNat + comp.toNat = mraw - cfg.dead) ∧
    (mraw < cfg.dead → cfg.dead ≤ craw → main.toNat + comp.toNat = craw - cfg.dead) ∧
    (mraw < cfg.dead → craw < cfg.dead → main.toNat + comp.toNat = 0) ∧
    main.toNat + comp.toNat ≤ satsub cfg.fs cfg.dead

/-- 40_generator.md R114: the symmetry of the table; the difference of 1 occurs only at a tie. -/
def Obligations.TableIsSymmetricUpToTies : Prop :=
  ∀ (cfg : Config) (i : Nat) (main comp main' comp' : Duty), cfg.wf = true →
    tableEntry cfg i = some (main, comp) → tableEntry cfg ((cfg.n - i) % cfg.n) = some (main', comp') →
    (main.toNat = comp'.toNat ∨ main.toNat = comp'.toNat + 1) ∧
    (main.toNat = comp'.toNat + 1 →
      Int.fract ((Real.sin (2 * Real.pi * i / cfg.n) + 1) * ((cfg.fs : ℝ) / 2)) = 1 / 2)

/-- 40_generator.md R115: a channel whose raw duty does not exceed the dead-time is exactly 0, on its own. -/
def Obligations.DeadTimeSaturatesEachChannelAtZero : Prop :=
  (∀ (cfg : Config) (i : Nat) (main comp : Duty), cfg.wf = true → tableEntry cfg i = some (main, comp) →
    (main = 0 ↔ mainRaw cfg.n cfg.fs i ≤ cfg.dead) ∧ (comp = 0 ↔ compRaw cfg.n cfg.fs i ≤ cfg.dead)) ∧
  generate 65535 4 40000 = some [(0, 0), (25535, 0), (0, 0), (0, 25535)]

/-- 40_generator.md R116, R117: the dump, line by line, and the exit code.
That the tool runs in an ill-formed configuration too, as far as its own constants are in range, is the model's choice (log
entry 21). -/
def Obligations.DumpToolPrintsTheTable : Prop :=
  (∀ cfg : Config, 1 ≤ cfg.toolN → cfg.toolN ≤ 65535 → cfg.toolDead ≤ 65535 → ∃ table, generate cfg.fs cfg.toolN cfg.toolDead = some table ∧
    runTool cfg = some
      { stdout := String.join (table.map fun e =>
          "(" ++ toString e.1.toNat ++ ", " ++ toString e.2.toNat ++ ")\n")
        exitCode := 0 }) ∧
  runTool { Config.reference with toolN := 4, toolDead := 0 } =
    some { stdout := "(32768, 32767)\n(65535, 0)\n(32768, 32767)\n(0, 65535)\n", exitCode := 0 }
end

