-- ==== Sys2Proof/Laws/Config.lean ====
section
/-! SUPPORT. The checks of a configuration as propositions, and the bounds they give. -/

namespace Sys2Proof

/-- The conjunction that `Config.wf` decides. -/
theorem config_wf_cases {cfg : Config} (h : cfg.wf = true) :
    (1 ≤ cfg.n ∧ cfg.n ≤ 65535) ∧ (1 ≤ cfg.fHz ∧ cfg.fHz ≤ 65535) ∧ (1 ≤ cfg.fs ∧ cfg.fs ≤ 65535) ∧
      cfg.dead ≤ 65535 ∧ cfg.fHz * cfg.n ≤ 1000000 ∧
      (1 ≤ cfg.gapUs ∧ cfg.gapUs < cfg.sampleUs ∧ cfg.gapUs < 2 ^ 32) ∧ cfg.debounceUs < 2 ^ 32 := by
  unfold Config.wf at h
  simp only [Bool.and_eq_true] at h
  obtain ⟨⟨⟨⟨⟨⟨h1, h2⟩, h3⟩, h4⟩, h5⟩, h6⟩, h7⟩ := h
  exact ⟨of_decide_eq_true h1, of_decide_eq_true h2, of_decide_eq_true h3, of_decide_eq_true h4, of_decide_eq_true h5,
    of_decide_eq_true h6, of_decide_eq_true h7⟩

/-- SAMPLE_US fits 32 bits. -/
theorem sampleUs_lt (cfg : Config) : cfg.sampleUs < 2 ^ 32 := by
  have := Nat.div_le_self 1000000 (cfg.fHz * cfg.n)
  unfold Config.sampleUs
  omega

end Sys2Proof
end

