-- ==== Sys2Proof/Laws/Decode.lean ====
section
/-! SUPPORT. The two fields of a word, and what decode answers, once for all words. -/

namespace Sys2Proof

@[simp] theorem opField_wordOf (op : BitVec 5) (a : BitVec 11) : opField (wordOf op a) = op := by
  unfold opField wordOf
  rw [BitVec.extractLsb'_append_eq_of_le (by decide)]
  simp

@[simp] theorem aField_wordOf (op : BitVec 5) (a : BitVec 11) : aField (wordOf op a) = a := by
  unfold aField wordOf
  rw [BitVec.extractLsb'_append_eq_of_add_le (by decide)]
  simp

/-- A word is its two fields. -/
theorem wordOf_fields (w : Word) : wordOf (opField w) (aField w) = w := by
  unfold opField aField wordOf
  exact BitVec.extractLsb'_append_extractLsb'_eq_extractLsb' (by decide) |>.trans (by simp)

theorem formN_ok {a : BitVec 11} {i j : Instr} (h : formN a i = .ok j) : a = 0 ∧ j = i := by
  unfold formN at h
  split at h
  · rename_i ha; exact ⟨ha, (Except.ok.inj h).symm⟩
  · cases h

/-- A field whose bits 10:1 are 0 is a form-V operand. -/
theorem eq_vField : ∀ a : BitVec 11, a.extractLsb' 1 10 = 0 → a = vField (a.getLsbD 0) := by decide +kernel

theorem formV_ok {a : BitVec 11} {f : Bool → Instr} {j : Instr} (h : formV a f = .ok j) :
    ∃ v, a = vField v ∧ j = f v := by
  unfold formV at h
  split at h
  · rename_i ha
    exact ⟨a.getLsbD 0, eq_vField a ha, (Except.ok.inj h).symm⟩
  · cases h

theorem formT_ok {a : BitVec 11} {f : Addr → Instr} {j : Instr} (h : formT a f = .ok j) : j = f a :=
  (Except.ok.inj h).symm

@[simp] theorem formV_vField (v : Bool) (f : Bool → Instr) : formV (vField v) f = .ok (f v) := by
  cases v <;> rfl

end Sys2Proof
end

