-- ==== Sys2Proof/Laws/Generator.lean ====
section
/-! SUPPORT. The generator's integer arithmetic decides comparisons with the exact sine (40_generator.md R101 to R104).
The chain: the sign of a sine tells which half turn its angle is in; so `halfTurns` and `turns` count half turns; so
`le_turns_iff` compares a cosine; so `sineAtLeast_iff` compares a sine; so `dutyReaches_iff` compares a duty. -/

namespace Sys2Proof.Machine

open Real

/-- The sign of `sin x` on the two half turns that begin at `m` half turns. -/
theorem sin_pos_iff_before_next_half_turn {m : ℕ} {x : ℝ} (hlo : m * π < x) (hhi : x < (m + 2) * π) :
    0 < (-1 : ℝ) ^ m * sin x ↔ x < (m + 1) * π := by
  have hx : sin x = (-1 : ℝ) ^ m * sin (x - m * π) := by
    have := Real.sin_add_nat_mul_pi (x - m * π) m
    simpa using this
  have hsq : (-1 : ℝ) ^ m * ((-1 : ℝ) ^ m * sin (x - m * π)) = sin (x - m * π) := by
    rw [← mul_assoc, ← mul_pow]; simp
  rw [hx, hsq]
  constructor
  · intro h
    by_contra hge
    push Not at hge
    have : sin (x - m * π - π) ≥ 0 :=
      Real.sin_nonneg_of_nonneg_of_le_pi (by linarith) (by nlinarith)
    rw [Real.sin_sub_pi] at this
    linarith
  · intro h
    exact Real.sin_pos_of_pos_of_lt_pi (by linarith) (by nlinarith)

theorem halfTurns_counts {p q : ℤ} {α : ℝ} (hq : 0 < q) (hα0 : 0 < α) (hαπ : α < π)
    (hp : (p : ℝ) = q * cos α) (n : ℕ) :
    ∀ (j m : ℕ) (prev cur : ℤ),
      (prev : ℝ) * (q * sin α) = (q : ℝ) ^ j * sin (j * α) →
      (cur : ℝ) * (q * sin α) = (q : ℝ) ^ (j + 1) * sin ((j + 1) * α) →
      m * π ≤ (j + 1) * α → (j + 1) * α < (m + 1) * π →
      (halfTurns p q n prev cur m : ℝ) * π ≤ (j + 1 + n) * α ∧
        (j + 1 + n) * α < (halfTurns p q n prev cur m + 1) * π := by
  have hqR : (0 : ℝ) < q := by exact_mod_cast hq
  have hs : 0 < sin α := Real.sin_pos_of_pos_of_lt_pi hα0 hαπ
  induction n with
  | zero => intro j m prev cur _ _ hlo hhi; simpa [halfTurns] using ⟨hlo, hhi⟩
  | succ n ih =>
    intro j m prev cur hprev hcur hlo hhi
    set next : ℤ := 2 * p * cur - q * q * prev with hnext
    have hsin : sin ((j + 2) * α) = 2 * cos α * sin ((j + 1) * α) - sin (j * α) := by
      have e1 : ((j : ℝ) + 2) * α = (j + 1) * α + α := by ring
      have e2 : (j : ℝ) * α = (j + 1) * α - α := by ring
      rw [e1, e2, Real.sin_add, Real.sin_sub]; ring
    have hnextR : (next : ℝ) * (q * sin α) = (q : ℝ) ^ (j + 2) * sin ((j + 2) * α) := by
      rw [hnext]; push_cast
      have : (2 * (p : ℝ) * cur - q * q * prev) * (q * sin α)
          = 2 * p * (cur * (q * sin α)) - q * q * (prev * (q * sin α)) := by ring
      rw [this, hcur, hprev, hsin, hp]; ring
    have hsign := sin_pos_iff_before_next_half_turn (m := m) (x := (j + 2) * α)
      (by nlinarith) (by nlinarith)
    have hpow : (0 : ℝ) < (q : ℝ) ^ (j + 2) := by positivity
    have hd : 0 < (q : ℝ) * sin α := by positivity
    have hahead : (0 < if m % 2 = 0 then next else -next) ↔ ((j : ℝ) + 2) * α < (m + 1) * π := by
      rw [← hsign]
      have key : ∀ z : ℤ, ((0 < z) ↔ 0 < (z : ℝ) * (q * sin α)) := fun z => by
        rw [mul_pos_iff_of_pos_right hd]; exact_mod_cast Iff.rfl
      rcases Nat.even_or_odd m with he | ho
      · rw [if_pos (Nat.even_iff.mp he), key, hnextR, he.neg_one_pow, one_mul]
        exact mul_pos_iff_of_pos_left hpow
      · rw [if_neg (by rw [Nat.odd_iff.mp ho]; decide), key]
        push_cast
        rw [neg_mul, hnextR, ho.neg_one_pow, neg_one_mul, ← mul_neg]
        exact mul_pos_iff_of_pos_left hpow
    have hrec := ih (j + 1) (if 0 < (if m % 2 = 0 then next else -next) then m else m + 1) cur next
      (by rw [hcur]; push_cast; rfl)
      (by rw [hnextR]; push_cast; ring_nf)
    by_cases hc : 0 < (if m % 2 = 0 then next else -next)
    · rw [if_pos hc] at hrec
      have := hrec (by push_cast; nlinarith) (by push_cast; have := hahead.mp hc; nlinarith)
      simp only [halfTurns, ← hnext, if_pos hc]
      push_cast at this ⊢
      constructor <;> nlinarith [this.1, this.2]
    · rw [if_neg hc] at hrec
      have hge : (m + 1) * π ≤ ((j : ℝ) + 2) * α := not_lt.mp (fun h => hc (hahead.mpr h))
      have := hrec (by push_cast; nlinarith) (by push_cast; nlinarith)
      simp only [halfTurns, ← hnext, if_neg hc]
      push_cast at this ⊢
      constructor <;> nlinarith [this.1, this.2]

theorem turns_counts {p q : ℤ} {α : ℝ} (hq : 0 < q) (hα0 : 0 < α) (hαπ : α < π)
    (hp : (p : ℝ) = q * cos α) (n : ℕ) :
    (turns p q n : ℝ) * π ≤ n * α ∧ n * α < (turns p q n + 1) * π := by
  cases n with
  | zero => simp [turns, Real.pi_pos]
  | succ n =>
    have := halfTurns_counts hq hα0 hαπ hp n 0 0 0 1 (by simp) (by simp)
      (by simp; positivity) (by simpa using hαπ)
    simp only [turns]
    push_cast at this ⊢
    constructor <;> nlinarith [this.1, this.2]

/-- `cos (πk/n) ≥ p/q`, decided by counting half turns. -/
theorem le_turns_iff {p q : ℤ} (hq : 0 < q) (hlo : -q < p) (hhi : p < q) {k n : ℕ} (hn : 0 < n) (hk : k ≤ n) :
    k ≤ turns p q n ↔ (p : ℝ) / q ≤ cos (π * k / n) := by
  have hqR : (0 : ℝ) < q := by exact_mod_cast hq
  have h1 : (-1 : ℝ) < p / q := by rw [lt_div_iff₀ hqR]; exact_mod_cast (by linarith : (-1) * q < p)
  have h2 : (p : ℝ) / q < 1 := by rw [div_lt_one hqR]; exact_mod_cast hhi
  set α := arccos (p / q) with hα
  have hcos : cos α = p / q := Real.cos_arccos h1.le h2.le
  have hα0 : 0 < α := Real.arccos_pos.mpr h2
  have hαπ : α < π := by
    refine lt_of_le_of_ne (Real.arccos_le_pi _) fun h => ?_
    rw [h, Real.cos_pi] at hcos; linarith
  have hp : (p : ℝ) = q * cos α := by rw [hcos]; field_simp
  obtain ⟨ha, hb⟩ := turns_counts hq hα0 hαπ hp n
  have hnR : (0 : ℝ) < n := by exact_mod_cast hn
  have hkR : (k : ℝ) ≤ n := by exact_mod_cast hk
  have hang : π * k / n ∈ Set.Icc 0 π := by
    constructor
    · positivity
    · rw [div_le_iff₀ hnR]; nlinarith [Real.pi_pos]
  rw [← hcos, Real.strictAntiOn_cos.le_iff_ge ⟨hα0.le, hαπ.le⟩ hang, div_le_iff₀ hnR]
  constructor
  · intro h
    have : (k : ℝ) ≤ turns p q n := by exact_mod_cast h
    nlinarith [Real.pi_pos]
  · intro h
    have : (k : ℝ) < turns p q n + 1 := by
      by_contra hge
      push Not at hge
      nlinarith [Real.pi_pos]
    exact Nat.lt_succ_iff.mp (by exact_mod_cast this)

theorem angleNum_le {N i : ℕ} (hi : i < N) : angleNum N i ≤ 2 * N := by
  unfold angleNum; dsimp only; split <;> omega

theorem cos_angleNum {N i : ℕ} (hN : 0 < N) (hi : i < N) :
    cos (π * angleNum N i / (2 * N : ℕ)) = sin (2 * π * i / N) := by
  have hNR : (N : ℝ) ≠ 0 := by exact_mod_cast hN.ne'
  have base : sin (2 * π * i / N) = cos (π * (((N : ℤ) - 4 * i : ℤ) : ℝ) / (2 * N)) := by
    rw [← Real.cos_pi_div_two_sub]; congr 1; push_cast; field_simp; ring
  have habs : cos (π * (((N : ℤ) - 4 * i : ℤ) : ℝ) / (2 * N))
      = cos (π * (((N : ℤ) - 4 * i).natAbs : ℝ) / (2 * N)) := by
    rw [Nat.cast_natAbs, Int.cast_abs]
    rcases abs_choice ((((N : ℤ) - 4 * i : ℤ)) : ℝ) with h | h <;> rw [h]
    rw [← Real.cos_neg]; congr 1; ring
  rw [base, habs]
  unfold angleNum; dsimp only
  split
  · push_cast; rfl
  · rename_i hgt
    have hle : ((N : ℤ) - 4 * i).natAbs ≤ 4 * N := by omega
    rw [← Real.cos_two_pi_sub]; congr 1
    push_cast [Nat.cast_sub hle]; field_simp; ring

theorem sineAtLeast_iff {N i : ℕ} (hi : i < N) {p q : ℤ} (hq : 0 < q) (hlo : -q < p) (hhi : p < q) :
    sineAtLeast N i p q = true ↔ (p : ℝ) / q ≤ sin (2 * π * i / N) := by
  have hN : 0 < N := by omega
  set k := angleNum N i with hk
  have hkle : k ≤ 2 * N := angleNum_le hi
  set g := Nat.gcd k (2 * N) with hg
  have hg0 : 0 < g := Nat.gcd_pos_of_pos_right _ (by omega)
  obtain ⟨a, ha⟩ : g ∣ k := Nat.gcd_dvd_left _ _
  obtain ⟨b, hb⟩ : g ∣ 2 * N := Nat.gcd_dvd_right _ _
  have hka : k / g = a := by rw [ha]; exact Nat.mul_div_cancel_left _ hg0
  have hnb : 2 * N / g = b := by rw [hb]; exact Nat.mul_div_cancel_left _ hg0
  have hb0 : 0 < b := by
    rcases Nat.eq_zero_or_pos b with h | h
    · rw [h] at hb; omega
    · exact h
  have hab : a ≤ b := by
    have : g * a ≤ g * b := by rw [← ha, ← hb]; exact hkle
    exact Nat.le_of_mul_le_mul_left this hg0
  have hcos := cos_angleNum hN hi
  simp only [sineAtLeast, ← hk, ← hg, hka, hnb, decide_eq_true_eq]
  rw [le_turns_iff hq hlo hhi hb0 hab, ← hcos, ← hk]
  have : π * (k : ℝ) / ((2 * N : ℕ) : ℝ) = π * a / b := by
    rw [hb, ha]; push_cast
    have : (g : ℝ) ≠ 0 := by exact_mod_cast hg0.ne'
    have : (b : ℝ) ≠ 0 := by exact_mod_cast hb0.ne'
    field_simp
  rw [this]

/-- The real number that rule R104 rounds. -/
noncomputable def scaledSine (N FS i : ℕ) : ℝ := (sin (2 * π * i / N) + 1) * (FS / 2) + 1 / 2

theorem dutyReaches_iff {N FS i m : ℕ} (hi : i < N) (hFS : 0 < FS) (hm : 0 < m) :
    dutyReaches N FS i m = true ↔ (m : ℝ) ≤ scaledSine N FS i := by
  have hFR : (0 : ℝ) < FS := by exact_mod_cast hFS
  unfold dutyReaches scaledSine
  by_cases hle : m ≤ FS
  · have := sineAtLeast_iff (N := N) hi (p := 2 * (m : ℤ) - 1 - FS) (q := FS)
      (by exact_mod_cast hFS) (by omega) (by omega)
    simp only [hle, decide_true, Bool.true_and]
    rw [this]; push_cast
    rw [div_le_iff₀ hFR]
    constructor <;> intro h <;> nlinarith
  · simp only [hle, decide_false, Bool.false_and, Bool.false_eq_true, false_iff, not_le]
    have : (FS : ℝ) + 1 ≤ m := by exact_mod_cast (by omega : FS + 1 ≤ m)
    nlinarith [Real.sin_le_one (2 * π * i / N)]

end Sys2Proof.Machine
end

