-- ==== Sys2Proof/Laws/Memory.lean ====
section
/-! SUPPORT. The laws of the micro-program ROM: read after write, and the canonical form kept. -/

namespace Sys2Proof.Machine

theorem memory_read_write_same (m : Memory) (a : Nat) (w : Word) (hm : Memory.wf m) :
    (m.write a w).read a = w := by
  induction m with
  | nil =>
    simp only [Memory.write]
    split
    · rename_i h; simp [Memory.read, h]
    · simp [Memory.read]
  | cons c rest ih =>
    obtain ⟨k, v⟩ := c
    have hsorted := hm.1
    simp only [List.map_cons, List.pairwise_cons] at hsorted
    have hrest : Memory.wf rest := ⟨hsorted.2, fun c hc => hm.2 c (List.mem_cons_of_mem _ hc)⟩
    -- an address below every listed one reads as the canonical image
    have below : ∀ b, (∀ k' ∈ rest.map Prod.fst, b < k') → Memory.read rest b = canonicalWord b := by
      intro b
      clear ih hm hrest hsorted
      induction rest with
      | nil => intro _; rfl
      | cons d tail ih =>
        intro h
        have hd := h d.1 (by simp)
        simp only [Memory.read]
        rw [if_neg (by omega)]
        exact ih fun k' hk' => h k' (by simp only [List.map_cons, List.mem_cons]; exact .inr hk')
    simp only [Memory.write]
    split
    · rename_i hlt
      split
      · rename_i hw
        simp only [Memory.read]
        rw [if_neg (by omega), below a fun k' hk' => Nat.lt_trans hlt (hsorted.1 k' hk'), hw]
      · simp [Memory.read]
    · split
      · rename_i heq
        split
        · rename_i hw
          subst heq
          rw [below a fun k' hk' => hsorted.1 k' hk', hw]
        · simp [Memory.read]
      · rename_i hne
        simp only [Memory.read]
        rw [if_neg (fun h => hne h.symm), ih hrest]

theorem memory_read_write_other (m : Memory) (a b : Nat) (w : Word) (hm : Memory.wf m) (hab : b ≠ a) :
    (m.write a w).read b = m.read b := by
  induction m with
  | nil =>
    simp only [Memory.write]
    split <;> simp [Memory.read, Ne.symm hab]
  | cons c rest ih =>
    obtain ⟨k, v⟩ := c
    have hsorted := hm.1
    simp only [List.map_cons, List.pairwise_cons] at hsorted
    have hrest : Memory.wf rest := ⟨hsorted.2, fun c hc => hm.2 c (List.mem_cons_of_mem _ hc)⟩
    simp only [Memory.write]
    split
    · split
      · rfl
      · simp [Memory.read, Ne.symm hab]
    · split
      · rename_i heq
        subst heq
        split <;> simp [Memory.read, Ne.symm hab]
      · simp only [Memory.read]
        rw [ih hrest]

/-- The addresses a write can leave listed. -/
theorem memory_write_mem {m : Memory} {a : Nat} {w : Word} {c : Nat × Word} (h : c ∈ m.write a w) :
    c ∈ m ∨ (c = (a, w) ∧ w ≠ canonicalWord a) := by
  induction m with
  | nil =>
    simp only [Memory.write] at h
    split at h <;> simp_all
  | cons d rest ih =>
    simp only [Memory.write] at h
    split at h
    · split at h <;> (simp_all; try tauto)
    · split at h
      · split at h <;> (simp_all; try tauto)
      · simp only [List.mem_cons] at h ⊢
        rcases h with h | h
        · exact .inl (.inl h)
        · exact (ih h).imp .inr id

theorem memory_write_keeps_wf {m : Memory} {a : Nat} (w : Word) (hm : Memory.wf m) (ha : a < 2048) :
    Memory.wf (m.write a w) := by
  refine ⟨?_, fun c hc => ?_⟩
  · induction m with
    | nil =>
      simp only [Memory.write]
      split <;> simp
    | cons d rest ih =>
      obtain ⟨k, v⟩ := d
      have hsorted := hm.1
      simp only [List.map_cons, List.pairwise_cons] at hsorted
      have hrest : Memory.wf rest := ⟨hsorted.2, fun c hc => hm.2 c (List.mem_cons_of_mem _ hc)⟩
      simp only [Memory.write]
      split
      · rename_i hlt
        split
        · exact hm.1
        · simp only [List.map_cons, List.pairwise_cons, List.mem_cons, forall_eq_or_imp]
          exact ⟨⟨hlt, fun k' hk' => Nat.lt_trans hlt (hsorted.1 k' hk')⟩, hsorted⟩
      · split
        · rename_i heq
          subst heq
          split
          · exact hsorted.2
          · simp only [List.map_cons, List.pairwise_cons]
            exact hsorted
        · rename_i hge hne
          simp only [List.map_cons, List.pairwise_cons]
          refine ⟨fun k' hk' => ?_, ih hrest⟩
          obtain ⟨c, hc, rfl⟩ := List.mem_map.mp hk'
          rcases memory_write_mem hc with h | ⟨h, -⟩
          · exact hsorted.1 c.1 (List.mem_map_of_mem h)
          · rw [h]; show k < a; omega
  · rcases memory_write_mem hc with h | ⟨h, hw⟩
    · exact hm.2 c h
    · rw [h]; exact ⟨ha, hw⟩

/-- Writing back the canonical word restores the canonical image. -/
theorem memory_canonical_wf : Memory.wf [] := ⟨List.Pairwise.nil, by simp⟩

end Sys2Proof.Machine
end

