-- ==== Sys2Proof/Laws/PerInstr.lean ====
section
/-! SUPPORT. The family RoundTrip: the word of a micro-op decodes to it in its own context, and is refused in the other. -/

namespace Sys2Proof.Laws.RoundTrip

/-- The encoding of a micro-op decodes to the micro-op in its own context and to nothing in the other. -/
def Statement (i : Instr) : Prop :=
  ∀ ctx, decode ctx (encode i) = if i.context = ctx then .ok i else .error .context

theorem init : Statement .init := by intro ctx; cases ctx <;> rfl

theorem put : Statement .put := by intro ctx; cases ctx <;> rfl

theorem unmask : Statement .unmask := by intro ctx; cases ctx <;> rfl

theorem poll (target : Addr) : Statement (.poll target) := by
  intro ctx
  cases ctx <;> simp [encode, decode, Instr.context, opContext, decodeOperands, formT]

theorem setind (v : Bool) : Statement (.setind v) := by intro ctx; cases ctx <;> cases v <;> rfl

theorem passinit : Statement .passinit := by intro ctx; cases ctx <;> rfl

theorem wra : Statement .wra := by intro ctx; cases ctx <;> rfl

theorem wrb : Statement .wrb := by intro ctx; cases ctx <;> rfl

theorem inc : Statement .inc := by intro ctx; cases ctx <;> rfl

theorem waits : Statement .waits := by intro ctx; cases ctx <;> rfl

theorem passnext (target : Addr) : Statement (.passnext target) := by
  intro ctx
  cases ctx <;> simp [encode, decode, Instr.context, opContext, decodeOperands, formT]

theorem diag (v : Bool) : Statement (.diag v) := by intro ctx; cases ctx <;> cases v <;> rfl

theorem za : Statement .za := by intro ctx; cases ctx <;> rfl

theorem zb : Statement .zb := by intro ctx; cases ctx <;> rfl

theorem gap : Statement .gap := by intro ctx; cases ctx <;> rfl

theorem jmp (target : Addr) : Statement (.jmp target) := by
  intro ctx
  cases ctx <;> simp [encode, decode, Instr.context, opContext, decodeOperands, formT]

theorem take : Statement .take := by intro ctx; cases ctx <;> rfl

theorem test (target : Addr) : Statement (.test target) := by
  intro ctx
  cases ctx <;> simp [encode, decode, Instr.context, opContext, decodeOperands, formT]

theorem toggle : Statement .toggle := by intro ctx; cases ctx <;> rfl

theorem clear : Statement .clear := by intro ctx; cases ctx <;> rfl

theorem debounce : Statement .debounce := by intro ctx; cases ctx <;> rfl

theorem reti : Statement .reti := by intro ctx; cases ctx <;> rfl

end Sys2Proof.Laws.RoundTrip
end

