-- ==== Sys2Proof/Laws/Program.lean ====
section
/-! SUPPORT. What the check on a micro-program finds: `comesBack` holds of an address exactly when a zero-time path leads from
it to itself. -/

namespace Sys2Proof.Machine

/-- One zero-time transition of a sequencer. -/
abbrev ZeroTimeEdge (ctx : Context) (rom : Memory) (a b : Addr) : Prop := b ∈ zeroTimeNext ctx rom a

/-- The canonical programs pass the check, which looks only where a ROM differs from them. -/
@[simp] theorem letsTimePass_canonical : letsTimePass [] = true := rfl

/-- A ROM passes the check iff neither sequencer has a loop. -/
theorem letsTimePass_iff {rom : Memory} :
    letsTimePass rom = true ↔ hasZeroTimeLoop .fg rom = false ∧ hasZeroTimeLoop .isr rom = false := by
  simp [letsTimePass]

/-- An address has at most two zero-time successors. -/
theorem zeroTimeNext_length (ctx : Context) (rom : Memory) (a : Addr) : (zeroTimeNext ctx rom a).length ≤ 2 := by
  unfold zeroTimeNext
  split <;> simp

/-- Every address found is one already seen or lies on a path from one still to do. -/
theorem mem_of_zeroTimeReach {ctx : Context} {rom : Memory} {b : Addr} {fuel : Nat} {todo seen : List Addr}
    (h : b ∈ zeroTimeReach ctx rom fuel todo seen) :
    b ∈ seen ∨ ∃ a ∈ todo, Relation.ReflTransGen (ZeroTimeEdge ctx rom) a b := by
  induction fuel generalizing todo seen with
  | zero => exact .inl h
  | succ fuel ih =>
    match todo with
    | [] => exact .inl h
    | a :: todo =>
      simp only [zeroTimeReach] at h
      split at h
      · exact (ih h).imp_right fun ⟨x, hx, hxb⟩ => ⟨x, List.mem_cons_of_mem _ hx, hxb⟩
      · rcases ih h with h | ⟨x, hx, hxb⟩
        · rcases List.mem_cons.mp h with rfl | h
          · exact .inr ⟨b, List.mem_cons_self, .refl⟩
          · exact .inl h
        · rcases List.mem_append.mp hx with hx | hx
          · exact .inr ⟨a, List.mem_cons_self, .head hx hxb⟩
          · exact .inr ⟨x, List.mem_cons_of_mem _ hx, hxb⟩

/-- A list of addresses without repeats has at most 2048 of them. -/
theorem addr_nodup_length {l : List Addr} (h : l.Nodup) : l.length ≤ 2048 := by
  have h' : (l.map BitVec.toFin).Nodup := h.map fun a b hab => by cases a; cases b; simpa using hab
  simpa using h'.length_le_card

/-- With fuel enough, what is found contains what was seen and to do, and is closed under zero-time transitions. -/
theorem zeroTimeReach_closed {ctx : Context} {rom : Memory} {fuel : Nat} {todo seen : List Addr} (hn : seen.Nodup)
    (hfuel : 2 * (2048 - seen.length) + todo.length ≤ fuel)
    (hseen : ∀ a ∈ seen, ∀ b ∈ zeroTimeNext ctx rom a, b ∈ seen ∨ b ∈ todo) :
    (∀ a, a ∈ seen ∨ a ∈ todo → a ∈ zeroTimeReach ctx rom fuel todo seen) ∧
      ∀ a ∈ zeroTimeReach ctx rom fuel todo seen, ∀ b ∈ zeroTimeNext ctx rom a,
        b ∈ zeroTimeReach ctx rom fuel todo seen := by
  induction fuel generalizing todo seen with
  | zero =>
    obtain rfl : todo = [] := List.length_eq_zero_iff.mp (by omega)
    exact ⟨by simp [zeroTimeReach], by simpa [zeroTimeReach] using hseen⟩
  | succ fuel ih =>
    match todo with
    | [] => exact ⟨by simp [zeroTimeReach], by simpa [zeroTimeReach] using hseen⟩
    | a :: todo =>
      simp only [zeroTimeReach]
      split
      · rename_i ha
        have ha : a ∈ seen := by simpa using ha
        obtain ⟨h1, h2⟩ := ih (todo := todo) hn (by simp at hfuel; omega) fun x hx b hb => by
          rcases hseen x hx b hb with h | h
          · exact .inl h
          · rcases List.mem_cons.mp h with rfl | h
            · exact .inl ha
            · exact .inr h
        refine ⟨fun x hx => h1 x ?_, h2⟩
        rcases hx with hx | hx
        · exact .inl hx
        · rcases List.mem_cons.mp hx with rfl | hx
          · exact .inl ha
          · exact .inr hx
      · rename_i ha
        have ha : a ∉ seen := by simpa using ha
        have hn' : (a :: seen).Nodup := List.nodup_cons.mpr ⟨ha, hn⟩
        have hlen := addr_nodup_length hn'
        have htwo := zeroTimeNext_length ctx rom a
        simp only [List.length_cons] at hlen hfuel
        obtain ⟨h1, h2⟩ := ih (todo := zeroTimeNext ctx rom a ++ todo) hn'
          (by simp only [List.length_cons, List.length_append]; omega) fun x hx b hb => by
          rcases List.mem_cons.mp hx with rfl | hx
          · exact .inr (List.mem_append_left _ hb)
          · rcases hseen x hx b hb with h | h
            · exact .inl (List.mem_cons_of_mem _ h)
            · rcases List.mem_cons.mp h with rfl | h
              · exact .inl List.mem_cons_self
              · exact .inr (List.mem_append_right _ h)
        refine ⟨fun x hx => h1 x ?_, h2⟩
        rcases hx with hx | hx
        · exact .inl (List.mem_cons_of_mem _ hx)
        · rcases List.mem_cons.mp hx with rfl | hx
          · exact .inl List.mem_cons_self
          · exact .inr (List.mem_append_right _ hx)

/-- `comesBack` decides whether a zero-time path leads from an address to itself. -/
theorem comesBack_iff {ctx : Context} {rom : Memory} {a : Addr} :
    comesBack ctx rom a = true ↔ Relation.TransGen (ZeroTimeEdge ctx rom) a a := by
  have htwo := zeroTimeNext_length ctx rom a
  obtain ⟨h1, h2⟩ := zeroTimeReach_closed (ctx := ctx) (rom := rom) (fuel := loopFuel) (todo := zeroTimeNext ctx rom a)
    (seen := []) List.nodup_nil (by simp only [loopFuel, List.length_nil]; omega) (by simp)
  simp only [comesBack, List.contains_iff_mem]
  constructor
  · intro h
    rcases mem_of_zeroTimeReach h with h | ⟨b, hb, hba⟩
    · cases h
    · exact .head' hb hba
  · intro h
    obtain ⟨b, hb, hba⟩ := Relation.TransGen.head'_iff.mp h
    have closed : ∀ c, Relation.ReflTransGen (ZeroTimeEdge ctx rom) b c →
        c ∈ zeroTimeReach ctx rom loopFuel (zeroTimeNext ctx rom a) [] := fun c hc => by
      induction hc with
      | refl => exact h1 b (.inr hb)
      | tail _ hstep ih => exact h2 _ ih _ hstep
    exact closed a hba

end Sys2Proof.Machine
end

