-- ==== Sys2Proof/Laws/State.lean ====
section
/-! SUPPORT. One lemma per field per update of the state, each true by rfl, so that no proof unfolds an update. -/

namespace Sys2Proof.Machine

/-! ## emitOut -/

@[simp] theorem emitOut_fgPc (e : OutEntry) (s : State) : (emitOut e s).fgPc = s.fgPc := rfl
@[simp] theorem emitOut_isrPc (e : OutEntry) (s : State) : (emitOut e s).isrPc = s.isrPc := rfl
@[simp] theorem emitOut_idx (e : OutEntry) (s : State) : (emitOut e s).idx = s.idx := rfl
@[simp] theorem emitOut_passRem (e : OutEntry) (s : State) : (emitOut e s).passRem = s.passRem := rfl
@[simp] theorem emitOut_chA (e : OutEntry) (s : State) : (emitOut e s).chA = s.chA := rfl
@[simp] theorem emitOut_chB (e : OutEntry) (s : State) : (emitOut e s).chB = s.chB := rfl
@[simp] theorem emitOut_ind (e : OutEntry) (s : State) : (emitOut e s).ind = s.ind := rfl
@[simp] theorem emitOut_last (e : OutEntry) (s : State) : (emitOut e s).last = s.last := rfl
@[simp] theorem emitOut_en (e : OutEntry) (s : State) : (emitOut e s).en = s.en := rfl
@[simp] theorem emitOut_pend (e : OutEntry) (s : State) : (emitOut e s).pend = s.pend := rfl
@[simp] theorem emitOut_irqEn (e : OutEntry) (s : State) : (emitOut e s).irqEn = s.irqEn := rfl
@[simp] theorem emitOut_inIsr (e : OutEntry) (s : State) : (emitOut e s).inIsr = s.inIsr := rfl
@[simp] theorem emitOut_slotFull (e : OutEntry) (s : State) : (emitOut e s).slotFull = s.slotFull := rfl
@[simp] theorem emitOut_owned (e : OutEntry) (s : State) : (emitOut e s).owned = s.owned := rfl
@[simp] theorem emitOut_armed (e : OutEntry) (s : State) : (emitOut e s).armed = s.armed := rfl
@[simp] theorem emitOut_fgWaitActive (e : OutEntry) (s : State) : (emitOut e s).fgWaitActive = s.fgWaitActive := rfl
@[simp] theorem emitOut_fgWaitRem (e : OutEntry) (s : State) : (emitOut e s).fgWaitRem = s.fgWaitRem := rfl
@[simp] theorem emitOut_debActive (e : OutEntry) (s : State) : (emitOut e s).debActive = s.debActive := rfl
@[simp] theorem emitOut_debRem (e : OutEntry) (s : State) : (emitOut e s).debRem = s.debRem := rfl
@[simp] theorem emitOut_fatal (e : OutEntry) (s : State) : (emitOut e s).fatal = s.fatal := rfl
@[simp] theorem emitOut_time (e : OutEntry) (s : State) : (emitOut e s).time = s.time := rfl
@[simp] theorem emitOut_btn (e : OutEntry) (s : State) : (emitOut e s).btn = s.btn := rfl
@[simp] theorem emitOut_outLog (e : OutEntry) (s : State) : (emitOut e s).outLog = s.outLog ++ [e] := rfl
@[simp] theorem emitOut_diagLog (e : OutEntry) (s : State) : (emitOut e s).diagLog = s.diagLog := rfl
@[simp] theorem emitOut_cfg (e : OutEntry) (s : State) : (emitOut e s).cfg = s.cfg := rfl
@[simp] theorem emitOut_rom (e : OutEntry) (s : State) : (emitOut e s).rom = s.rom := rfl
@[simp] theorem emitOut_schedule (e : OutEntry) (s : State) : (emitOut e s).schedule = s.schedule := rfl
@[simp] theorem emitOut_startupOk (e : OutEntry) (s : State) : (emitOut e s).startupOk = s.startupOk := rfl
@[simp] theorem emitOut_hostLog (e : OutEntry) (s : State) : (emitOut e s).hostLog = s.hostLog := rfl

/-! ## emitDiag -/

@[simp] theorem emitDiag_fgPc (e : DiagEntry) (s : State) : (emitDiag e s).fgPc = s.fgPc := rfl
@[simp] theorem emitDiag_isrPc (e : DiagEntry) (s : State) : (emitDiag e s).isrPc = s.isrPc := rfl
@[simp] theorem emitDiag_idx (e : DiagEntry) (s : State) : (emitDiag e s).idx = s.idx := rfl
@[simp] theorem emitDiag_passRem (e : DiagEntry) (s : State) : (emitDiag e s).passRem = s.passRem := rfl
@[simp] theorem emitDiag_chA (e : DiagEntry) (s : State) : (emitDiag e s).chA = s.chA := rfl
@[simp] theorem emitDiag_chB (e : DiagEntry) (s : State) : (emitDiag e s).chB = s.chB := rfl
@[simp] theorem emitDiag_ind (e : DiagEntry) (s : State) : (emitDiag e s).ind = s.ind := rfl
@[simp] theorem emitDiag_last (e : DiagEntry) (s : State) : (emitDiag e s).last = s.last := rfl
@[simp] theorem emitDiag_en (e : DiagEntry) (s : State) : (emitDiag e s).en = s.en := rfl
@[simp] theorem emitDiag_pend (e : DiagEntry) (s : State) : (emitDiag e s).pend = s.pend := rfl
@[simp] theorem emitDiag_irqEn (e : DiagEntry) (s : State) : (emitDiag e s).irqEn = s.irqEn := rfl
@[simp] theorem emitDiag_inIsr (e : DiagEntry) (s : State) : (emitDiag e s).inIsr = s.inIsr := rfl
@[simp] theorem emitDiag_slotFull (e : DiagEntry) (s : State) : (emitDiag e s).slotFull = s.slotFull := rfl
@[simp] theorem emitDiag_owned (e : DiagEntry) (s : State) : (emitDiag e s).owned = s.owned := rfl
@[simp] theorem emitDiag_armed (e : DiagEntry) (s : State) : (emitDiag e s).armed = s.armed := rfl
@[simp] theorem emitDiag_fgWaitActive (e : DiagEntry) (s : State) : (emitDiag e s).fgWaitActive = s.fgWaitActive := rfl
@[simp] theorem emitDiag_fgWaitRem (e : DiagEntry) (s : State) : (emitDiag e s).fgWaitRem = s.fgWaitRem := rfl
@[simp] theorem emitDiag_debActive (e : DiagEntry) (s : State) : (emitDiag e s).debActive = s.debActive := rfl
@[simp] theorem emitDiag_debRem (e : DiagEntry) (s : State) : (emitDiag e s).debRem = s.debRem := rfl
@[simp] theorem emitDiag_fatal (e : DiagEntry) (s : State) : (emitDiag e s).fatal = s.fatal := rfl
@[simp] theorem emitDiag_time (e : DiagEntry) (s : State) : (emitDiag e s).time = s.time := rfl
@[simp] theorem emitDiag_btn (e : DiagEntry) (s : State) : (emitDiag e s).btn = s.btn := rfl
@[simp] theorem emitDiag_outLog (e : DiagEntry) (s : State) : (emitDiag e s).outLog = s.outLog := rfl
@[simp] theorem emitDiag_diagLog (e : DiagEntry) (s : State) : (emitDiag e s).diagLog = s.diagLog ++ [e] := rfl
@[simp] theorem emitDiag_cfg (e : DiagEntry) (s : State) : (emitDiag e s).cfg = s.cfg := rfl
@[simp] theorem emitDiag_rom (e : DiagEntry) (s : State) : (emitDiag e s).rom = s.rom := rfl
@[simp] theorem emitDiag_schedule (e : DiagEntry) (s : State) : (emitDiag e s).schedule = s.schedule := rfl
@[simp] theorem emitDiag_startupOk (e : DiagEntry) (s : State) : (emitDiag e s).startupOk = s.startupOk := rfl
@[simp] theorem emitDiag_hostLog (e : DiagEntry) (s : State) : (emitDiag e s).hostLog = s.hostLog := rfl

/-! ## raiseFatal -/

@[simp] theorem raiseFatal_fgPc (c : FatalCause) (s : State) : (raiseFatal c s).fgPc = s.fgPc := rfl
@[simp] theorem raiseFatal_isrPc (c : FatalCause) (s : State) : (raiseFatal c s).isrPc = s.isrPc := rfl
@[simp] theorem raiseFatal_idx (c : FatalCause) (s : State) : (raiseFatal c s).idx = s.idx := rfl
@[simp] theorem raiseFatal_passRem (c : FatalCause) (s : State) : (raiseFatal c s).passRem = s.passRem := rfl
@[simp] theorem raiseFatal_chA (c : FatalCause) (s : State) : (raiseFatal c s).chA = s.chA := rfl
@[simp] theorem raiseFatal_chB (c : FatalCause) (s : State) : (raiseFatal c s).chB = s.chB := rfl
@[simp] theorem raiseFatal_ind (c : FatalCause) (s : State) : (raiseFatal c s).ind = s.ind := rfl
@[simp] theorem raiseFatal_last (c : FatalCause) (s : State) : (raiseFatal c s).last = s.last := rfl
@[simp] theorem raiseFatal_en (c : FatalCause) (s : State) : (raiseFatal c s).en = s.en := rfl
@[simp] theorem raiseFatal_pend (c : FatalCause) (s : State) : (raiseFatal c s).pend = s.pend := rfl
@[simp] theorem raiseFatal_irqEn (c : FatalCause) (s : State) : (raiseFatal c s).irqEn = s.irqEn := rfl
@[simp] theorem raiseFatal_inIsr (c : FatalCause) (s : State) : (raiseFatal c s).inIsr = s.inIsr := rfl
@[simp] theorem raiseFatal_slotFull (c : FatalCause) (s : State) : (raiseFatal c s).slotFull = s.slotFull := rfl
@[simp] theorem raiseFatal_owned (c : FatalCause) (s : State) : (raiseFatal c s).owned = s.owned := rfl
@[simp] theorem raiseFatal_armed (c : FatalCause) (s : State) : (raiseFatal c s).armed = s.armed := rfl
@[simp] theorem raiseFatal_fgWaitActive (c : FatalCause) (s : State) : (raiseFatal c s).fgWaitActive = s.fgWaitActive := rfl
@[simp] theorem raiseFatal_fgWaitRem (c : FatalCause) (s : State) : (raiseFatal c s).fgWaitRem = s.fgWaitRem := rfl
@[simp] theorem raiseFatal_debActive (c : FatalCause) (s : State) : (raiseFatal c s).debActive = s.debActive := rfl
@[simp] theorem raiseFatal_debRem (c : FatalCause) (s : State) : (raiseFatal c s).debRem = s.debRem := rfl
@[simp] theorem raiseFatal_fatal (c : FatalCause) (s : State) : (raiseFatal c s).fatal = c := rfl
@[simp] theorem raiseFatal_time (c : FatalCause) (s : State) : (raiseFatal c s).time = s.time := rfl
@[simp] theorem raiseFatal_btn (c : FatalCause) (s : State) : (raiseFatal c s).btn = s.btn := rfl
@[simp] theorem raiseFatal_outLog (c : FatalCause) (s : State) : (raiseFatal c s).outLog = s.outLog := rfl
@[simp] theorem raiseFatal_diagLog (c : FatalCause) (s : State) : (raiseFatal c s).diagLog = s.diagLog := rfl
@[simp] theorem raiseFatal_cfg (c : FatalCause) (s : State) : (raiseFatal c s).cfg = s.cfg := rfl
@[simp] theorem raiseFatal_rom (c : FatalCause) (s : State) : (raiseFatal c s).rom = s.rom := rfl
@[simp] theorem raiseFatal_schedule (c : FatalCause) (s : State) : (raiseFatal c s).schedule = s.schedule := rfl
@[simp] theorem raiseFatal_startupOk (c : FatalCause) (s : State) : (raiseFatal c s).startupOk = s.startupOk := rfl
@[simp] theorem raiseFatal_hostLog (c : FatalCause) (s : State) : (raiseFatal c s).hostLog = s.hostLog := rfl

/-! ## enterInterrupt -/

@[simp] theorem enterInterrupt_fgPc (s : State) : (enterInterrupt s).fgPc = s.fgPc := rfl
@[simp] theorem enterInterrupt_isrPc (s : State) : (enterInterrupt s).isrPc = 32 := rfl
@[simp] theorem enterInterrupt_idx (s : State) : (enterInterrupt s).idx = s.idx := rfl
@[simp] theorem enterInterrupt_passRem (s : State) : (enterInterrupt s).passRem = s.passRem := rfl
@[simp] theorem enterInterrupt_chA (s : State) : (enterInterrupt s).chA = s.chA := rfl
@[simp] theorem enterInterrupt_chB (s : State) : (enterInterrupt s).chB = s.chB := rfl
@[simp] theorem enterInterrupt_ind (s : State) : (enterInterrupt s).ind = s.ind := rfl
@[simp] theorem enterInterrupt_last (s : State) : (enterInterrupt s).last = s.last := rfl
@[simp] theorem enterInterrupt_en (s : State) : (enterInterrupt s).en = s.en := rfl
@[simp] theorem enterInterrupt_pend (s : State) : (enterInterrupt s).pend = s.pend := rfl
@[simp] theorem enterInterrupt_irqEn (s : State) : (enterInterrupt s).irqEn = s.irqEn := rfl
@[simp] theorem enterInterrupt_inIsr (s : State) : (enterInterrupt s).inIsr = true := rfl
@[simp] theorem enterInterrupt_slotFull (s : State) : (enterInterrupt s).slotFull = s.slotFull := rfl
@[simp] theorem enterInterrupt_owned (s : State) : (enterInterrupt s).owned = s.owned := rfl
@[simp] theorem enterInterrupt_armed (s : State) : (enterInterrupt s).armed = s.armed := rfl
@[simp] theorem enterInterrupt_fgWaitActive (s : State) : (enterInterrupt s).fgWaitActive = s.fgWaitActive := rfl
@[simp] theorem enterInterrupt_fgWaitRem (s : State) : (enterInterrupt s).fgWaitRem = s.fgWaitRem := rfl
@[simp] theorem enterInterrupt_debActive (s : State) : (enterInterrupt s).debActive = s.debActive := rfl
@[simp] theorem enterInterrupt_debRem (s : State) : (enterInterrupt s).debRem = s.debRem := rfl
@[simp] theorem enterInterrupt_fatal (s : State) : (enterInterrupt s).fatal = s.fatal := rfl
@[simp] theorem enterInterrupt_time (s : State) : (enterInterrupt s).time = s.time := rfl
@[simp] theorem enterInterrupt_btn (s : State) : (enterInterrupt s).btn = s.btn := rfl
@[simp] theorem enterInterrupt_outLog (s : State) : (enterInterrupt s).outLog = s.outLog := rfl
@[simp] theorem enterInterrupt_diagLog (s : State) : (enterInterrupt s).diagLog = s.diagLog := rfl
@[simp] theorem enterInterrupt_cfg (s : State) : (enterInterrupt s).cfg = s.cfg := rfl
@[simp] theorem enterInterrupt_rom (s : State) : (enterInterrupt s).rom = s.rom := rfl
@[simp] theorem enterInterrupt_schedule (s : State) : (enterInterrupt s).schedule = s.schedule := rfl
@[simp] theorem enterInterrupt_startupOk (s : State) : (enterInterrupt s).startupOk = s.startupOk := rfl
@[simp] theorem enterInterrupt_hostLog (s : State) : (enterInterrupt s).hostLog = s.hostLog := rfl

/-! ## returnFromInterrupt -/

@[simp] theorem returnFromInterrupt_fgPc (s : State) : (returnFromInterrupt s).fgPc = s.fgPc := rfl
@[simp] theorem returnFromInterrupt_isrPc (s : State) : (returnFromInterrupt s).isrPc = s.isrPc := rfl
@[simp] theorem returnFromInterrupt_idx (s : State) : (returnFromInterrupt s).idx = s.idx := rfl
@[simp] theorem returnFromInterrupt_passRem (s : State) : (returnFromInterrupt s).passRem = s.passRem := rfl
@[simp] theorem returnFromInterrupt_chA (s : State) : (returnFromInterrupt s).chA = s.chA := rfl
@[simp] theorem returnFromInterrupt_chB (s : State) : (returnFromInterrupt s).chB = s.chB := rfl
@[simp] theorem returnFromInterrupt_ind (s : State) : (returnFromInterrupt s).ind = s.ind := rfl
@[simp] theorem returnFromInterrupt_last (s : State) : (returnFromInterrupt s).last = s.last := rfl
@[simp] theorem returnFromInterrupt_en (s : State) : (returnFromInterrupt s).en = s.en := rfl
@[simp] theorem returnFromInterrupt_pend (s : State) : (returnFromInterrupt s).pend = s.pend := rfl
@[simp] theorem returnFromInterrupt_irqEn (s : State) : (returnFromInterrupt s).irqEn = s.irqEn := rfl
@[simp] theorem returnFromInterrupt_inIsr (s : State) : (returnFromInterrupt s).inIsr = false := rfl
@[simp] theorem returnFromInterrupt_slotFull (s : State) : (returnFromInterrupt s).slotFull = s.slotFull := rfl
@[simp] theorem returnFromInterrupt_owned (s : State) : (returnFromInterrupt s).owned = s.owned := rfl
@[simp] theorem returnFromInterrupt_armed (s : State) : (returnFromInterrupt s).armed = s.armed := rfl
@[simp] theorem returnFromInterrupt_fgWaitActive (s : State) : (returnFromInterrupt s).fgWaitActive = s.fgWaitActive := rfl
@[simp] theorem returnFromInterrupt_fgWaitRem (s : State) : (returnFromInterrupt s).fgWaitRem = s.fgWaitRem := rfl
@[simp] theorem returnFromInterrupt_debActive (s : State) : (returnFromInterrupt s).debActive = s.debActive := rfl
@[simp] theorem returnFromInterrupt_debRem (s : State) : (returnFromInterrupt s).debRem = s.debRem := rfl
@[simp] theorem returnFromInterrupt_fatal (s : State) : (returnFromInterrupt s).fatal = s.fatal := rfl
@[simp] theorem returnFromInterrupt_time (s : State) : (returnFromInterrupt s).time = s.time := rfl
@[simp] theorem returnFromInterrupt_btn (s : State) : (returnFromInterrupt s).btn = s.btn := rfl
@[simp] theorem returnFromInterrupt_outLog (s : State) : (returnFromInterrupt s).outLog = s.outLog := rfl
@[simp] theorem returnFromInterrupt_diagLog (s : State) : (returnFromInterrupt s).diagLog = s.diagLog := rfl
@[simp] theorem returnFromInterrupt_cfg (s : State) : (returnFromInterrupt s).cfg = s.cfg := rfl
@[simp] theorem returnFromInterrupt_rom (s : State) : (returnFromInterrupt s).rom = s.rom := rfl
@[simp] theorem returnFromInterrupt_schedule (s : State) : (returnFromInterrupt s).schedule = s.schedule := rfl
@[simp] theorem returnFromInterrupt_startupOk (s : State) : (returnFromInterrupt s).startupOk = s.startupOk := rfl
@[simp] theorem returnFromInterrupt_hostLog (s : State) : (returnFromInterrupt s).hostLog = s.hostLog := rfl

/-! ## tick -/

@[simp] theorem tick_fgPc (s : State) : (tick s).fgPc = s.fgPc := rfl
@[simp] theorem tick_isrPc (s : State) : (tick s).isrPc = s.isrPc := rfl
@[simp] theorem tick_idx (s : State) : (tick s).idx = s.idx := rfl
@[simp] theorem tick_passRem (s : State) : (tick s).passRem = s.passRem := rfl
@[simp] theorem tick_chA (s : State) : (tick s).chA = s.chA := rfl
@[simp] theorem tick_chB (s : State) : (tick s).chB = s.chB := rfl
@[simp] theorem tick_ind (s : State) : (tick s).ind = s.ind := rfl
@[simp] theorem tick_last (s : State) : (tick s).last = s.last := rfl
@[simp] theorem tick_en (s : State) : (tick s).en = s.en := rfl
@[simp] theorem tick_pend (s : State) : (tick s).pend = s.pend := rfl
@[simp] theorem tick_irqEn (s : State) : (tick s).irqEn = s.irqEn := rfl
@[simp] theorem tick_inIsr (s : State) : (tick s).inIsr = s.inIsr := rfl
@[simp] theorem tick_slotFull (s : State) : (tick s).slotFull = s.slotFull := rfl
@[simp] theorem tick_owned (s : State) : (tick s).owned = s.owned := rfl
@[simp] theorem tick_armed (s : State) : (tick s).armed = s.armed := rfl
@[simp] theorem tick_fgWaitActive (s : State) : (tick s).fgWaitActive = s.fgWaitActive := rfl
@[simp] theorem tick_fgWaitRem (s : State) : (tick s).fgWaitRem = if fgWaitCounts s then s.fgWaitRem - 1 else s.fgWaitRem := rfl
@[simp] theorem tick_debActive (s : State) : (tick s).debActive = s.debActive := rfl
@[simp] theorem tick_debRem (s : State) : (tick s).debRem = if debWaitCounts s then s.debRem - 1 else s.debRem := rfl
@[simp] theorem tick_fatal (s : State) : (tick s).fatal = s.fatal := rfl
@[simp] theorem tick_time (s : State) : (tick s).time = s.time + 1 := rfl
@[simp] theorem tick_btn (s : State) : (tick s).btn = s.btn := rfl
@[simp] theorem tick_outLog (s : State) : (tick s).outLog = s.outLog := rfl
@[simp] theorem tick_diagLog (s : State) : (tick s).diagLog = s.diagLog := rfl
@[simp] theorem tick_cfg (s : State) : (tick s).cfg = s.cfg := rfl
@[simp] theorem tick_rom (s : State) : (tick s).rom = s.rom := rfl
@[simp] theorem tick_schedule (s : State) : (tick s).schedule = s.schedule := rfl
@[simp] theorem tick_startupOk (s : State) : (tick s).startupOk = s.startupOk := rfl
@[simp] theorem tick_hostLog (s : State) : (tick s).hostLog = s.hostLog := rfl

/-! ## setButton -/

@[simp] theorem setButton_fgPc (level : Bool) (s : State) : (setButton level s).fgPc = s.fgPc := rfl
@[simp] theorem setButton_isrPc (level : Bool) (s : State) : (setButton level s).isrPc = s.isrPc := rfl
@[simp] theorem setButton_idx (level : Bool) (s : State) : (setButton level s).idx = s.idx := rfl
@[simp] theorem setButton_passRem (level : Bool) (s : State) : (setButton level s).passRem = s.passRem := rfl
@[simp] theorem setButton_chA (level : Bool) (s : State) : (setButton level s).chA = s.chA := rfl
@[simp] theorem setButton_chB (level : Bool) (s : State) : (setButton level s).chB = s.chB := rfl
@[simp] theorem setButton_ind (level : Bool) (s : State) : (setButton level s).ind = s.ind := rfl
@[simp] theorem setButton_last (level : Bool) (s : State) : (setButton level s).last = s.last := rfl
@[simp] theorem setButton_en (level : Bool) (s : State) : (setButton level s).en = s.en := rfl
@[simp] theorem setButton_pend (level : Bool) (s : State) : (setButton level s).pend = if edgeLatches level s then true else s.pend := rfl
@[simp] theorem setButton_irqEn (level : Bool) (s : State) : (setButton level s).irqEn = s.irqEn := rfl
@[simp] theorem setButton_inIsr (level : Bool) (s : State) : (setButton level s).inIsr = s.inIsr := rfl
@[simp] theorem setButton_slotFull (level : Bool) (s : State) : (setButton level s).slotFull = s.slotFull := rfl
@[simp] theorem setButton_owned (level : Bool) (s : State) : (setButton level s).owned = s.owned := rfl
@[simp] theorem setButton_armed (level : Bool) (s : State) : (setButton level s).armed = s.armed := rfl
@[simp] theorem setButton_fgWaitActive (level : Bool) (s : State) : (setButton level s).fgWaitActive = s.fgWaitActive := rfl
@[simp] theorem setButton_fgWaitRem (level : Bool) (s : State) : (setButton level s).fgWaitRem = s.fgWaitRem := rfl
@[simp] theorem setButton_debActive (level : Bool) (s : State) : (setButton level s).debActive = s.debActive := rfl
@[simp] theorem setButton_debRem (level : Bool) (s : State) : (setButton level s).debRem = s.debRem := rfl
@[simp] theorem setButton_fatal (level : Bool) (s : State) : (setButton level s).fatal = s.fatal := rfl
@[simp] theorem setButton_time (level : Bool) (s : State) : (setButton level s).time = s.time := rfl
@[simp] theorem setButton_btn (level : Bool) (s : State) : (setButton level s).btn = level := rfl
@[simp] theorem setButton_outLog (level : Bool) (s : State) : (setButton level s).outLog = s.outLog := rfl
@[simp] theorem setButton_diagLog (level : Bool) (s : State) : (setButton level s).diagLog = s.diagLog := rfl
@[simp] theorem setButton_cfg (level : Bool) (s : State) : (setButton level s).cfg = s.cfg := rfl
@[simp] theorem setButton_rom (level : Bool) (s : State) : (setButton level s).rom = s.rom := rfl
@[simp] theorem setButton_schedule (level : Bool) (s : State) : (setButton level s).schedule = s.schedule := rfl
@[simp] theorem setButton_startupOk (level : Bool) (s : State) : (setButton level s).startupOk = s.startupOk := rfl
@[simp] theorem setButton_hostLog (level : Bool) (s : State) : (setButton level s).hostLog = s.hostLog := rfl

/-! ## hostRead -/

@[simp] theorem hostRead_fgPc (addr width : Nat) (s : State) : (hostRead addr width s).fgPc = s.fgPc := rfl
@[simp] theorem hostRead_isrPc (addr width : Nat) (s : State) : (hostRead addr width s).isrPc = s.isrPc := rfl
@[simp] theorem hostRead_idx (addr width : Nat) (s : State) : (hostRead addr width s).idx = s.idx := rfl
@[simp] theorem hostRead_passRem (addr width : Nat) (s : State) : (hostRead addr width s).passRem = s.passRem := rfl
@[simp] theorem hostRead_chA (addr width : Nat) (s : State) : (hostRead addr width s).chA = s.chA := rfl
@[simp] theorem hostRead_chB (addr width : Nat) (s : State) : (hostRead addr width s).chB = s.chB := rfl
@[simp] theorem hostRead_ind (addr width : Nat) (s : State) : (hostRead addr width s).ind = s.ind := rfl
@[simp] theorem hostRead_last (addr width : Nat) (s : State) : (hostRead addr width s).last = s.last := rfl
@[simp] theorem hostRead_en (addr width : Nat) (s : State) : (hostRead addr width s).en = s.en := rfl
@[simp] theorem hostRead_pend (addr width : Nat) (s : State) : (hostRead addr width s).pend = s.pend := rfl
@[simp] theorem hostRead_irqEn (addr width : Nat) (s : State) : (hostRead addr width s).irqEn = s.irqEn := rfl
@[simp] theorem hostRead_inIsr (addr width : Nat) (s : State) : (hostRead addr width s).inIsr = s.inIsr := rfl
@[simp] theorem hostRead_slotFull (addr width : Nat) (s : State) : (hostRead addr width s).slotFull = s.slotFull := rfl
@[simp] theorem hostRead_owned (addr width : Nat) (s : State) : (hostRead addr width s).owned = s.owned := rfl
@[simp] theorem hostRead_armed (addr width : Nat) (s : State) : (hostRead addr width s).armed = s.armed := rfl
@[simp] theorem hostRead_fgWaitActive (addr width : Nat) (s : State) : (hostRead addr width s).fgWaitActive = s.fgWaitActive := rfl
@[simp] theorem hostRead_fgWaitRem (addr width : Nat) (s : State) : (hostRead addr width s).fgWaitRem = s.fgWaitRem := rfl
@[simp] theorem hostRead_debActive (addr width : Nat) (s : State) : (hostRead addr width s).debActive = s.debActive := rfl
@[simp] theorem hostRead_debRem (addr width : Nat) (s : State) : (hostRead addr width s).debRem = s.debRem := rfl
@[simp] theorem hostRead_fatal (addr width : Nat) (s : State) : (hostRead addr width s).fatal = s.fatal := rfl
@[simp] theorem hostRead_time (addr width : Nat) (s : State) : (hostRead addr width s).time = s.time := rfl
@[simp] theorem hostRead_btn (addr width : Nat) (s : State) : (hostRead addr width s).btn = s.btn := rfl
@[simp] theorem hostRead_outLog (addr width : Nat) (s : State) : (hostRead addr width s).outLog = s.outLog := rfl
@[simp] theorem hostRead_diagLog (addr width : Nat) (s : State) : (hostRead addr width s).diagLog = s.diagLog := rfl
@[simp] theorem hostRead_cfg (addr width : Nat) (s : State) : (hostRead addr width s).cfg = s.cfg := rfl
@[simp] theorem hostRead_rom (addr width : Nat) (s : State) : (hostRead addr width s).rom = s.rom := rfl
@[simp] theorem hostRead_schedule (addr width : Nat) (s : State) : (hostRead addr width s).schedule = s.schedule := rfl
@[simp] theorem hostRead_startupOk (addr width : Nat) (s : State) : (hostRead addr width s).startupOk = s.startupOk := rfl
@[simp] theorem hostRead_hostLog (addr width : Nat) (s : State) : (hostRead addr width s).hostLog = s.hostLog ++ [.read addr width (memRead s addr width)] := rfl

/-! ## hostWrite -/

@[simp] theorem hostWrite_fgPc (addr width data : Nat) (s : State) : (hostWrite addr width data s).fgPc = s.fgPc := rfl
@[simp] theorem hostWrite_isrPc (addr width data : Nat) (s : State) : (hostWrite addr width data s).isrPc = s.isrPc := rfl
@[simp] theorem hostWrite_idx (addr width data : Nat) (s : State) : (hostWrite addr width data s).idx = s.idx := rfl
@[simp] theorem hostWrite_passRem (addr width data : Nat) (s : State) : (hostWrite addr width data s).passRem = s.passRem := rfl
@[simp] theorem hostWrite_chA (addr width data : Nat) (s : State) : (hostWrite addr width data s).chA = s.chA := rfl
@[simp] theorem hostWrite_chB (addr width data : Nat) (s : State) : (hostWrite addr width data s).chB = s.chB := rfl
@[simp] theorem hostWrite_ind (addr width data : Nat) (s : State) : (hostWrite addr width data s).ind = s.ind := rfl
@[simp] theorem hostWrite_last (addr width data : Nat) (s : State) : (hostWrite addr width data s).last = s.last := rfl
@[simp] theorem hostWrite_en (addr width data : Nat) (s : State) : (hostWrite addr width data s).en = s.en := rfl
@[simp] theorem hostWrite_pend (addr width data : Nat) (s : State) : (hostWrite addr width data s).pend = s.pend := rfl
@[simp] theorem hostWrite_irqEn (addr width data : Nat) (s : State) : (hostWrite addr width data s).irqEn = s.irqEn := rfl
@[simp] theorem hostWrite_inIsr (addr width data : Nat) (s : State) : (hostWrite addr width data s).inIsr = s.inIsr := rfl
@[simp] theorem hostWrite_slotFull (addr width data : Nat) (s : State) : (hostWrite addr width data s).slotFull = s.slotFull := rfl
@[simp] theorem hostWrite_owned (addr width data : Nat) (s : State) : (hostWrite addr width data s).owned = s.owned := rfl
@[simp] theorem hostWrite_armed (addr width data : Nat) (s : State) : (hostWrite addr width data s).armed = s.armed := rfl
@[simp] theorem hostWrite_fgWaitActive (addr width data : Nat) (s : State) : (hostWrite addr width data s).fgWaitActive = s.fgWaitActive := rfl
@[simp] theorem hostWrite_fgWaitRem (addr width data : Nat) (s : State) : (hostWrite addr width data s).fgWaitRem = s.fgWaitRem := rfl
@[simp] theorem hostWrite_debActive (addr width data : Nat) (s : State) : (hostWrite addr width data s).debActive = s.debActive := rfl
@[simp] theorem hostWrite_debRem (addr width data : Nat) (s : State) : (hostWrite addr width data s).debRem = s.debRem := rfl
@[simp] theorem hostWrite_fatal (addr width data : Nat) (s : State) : (hostWrite addr width data s).fatal = s.fatal := rfl
@[simp] theorem hostWrite_time (addr width data : Nat) (s : State) : (hostWrite addr width data s).time = s.time := rfl
@[simp] theorem hostWrite_btn (addr width data : Nat) (s : State) : (hostWrite addr width data s).btn = s.btn := rfl
@[simp] theorem hostWrite_outLog (addr width data : Nat) (s : State) : (hostWrite addr width data s).outLog = s.outLog := rfl
@[simp] theorem hostWrite_diagLog (addr width data : Nat) (s : State) : (hostWrite addr width data s).diagLog = s.diagLog := rfl
@[simp] theorem hostWrite_cfg (addr width data : Nat) (s : State) : (hostWrite addr width data s).cfg = s.cfg := rfl
@[simp] theorem hostWrite_rom (addr width data : Nat) (s : State) : (hostWrite addr width data s).rom = s.rom := rfl
@[simp] theorem hostWrite_schedule (addr width data : Nat) (s : State) : (hostWrite addr width data s).schedule = s.schedule := rfl
@[simp] theorem hostWrite_startupOk (addr width data : Nat) (s : State) : (hostWrite addr width data s).startupOk = s.startupOk := rfl
@[simp] theorem hostWrite_hostLog (addr width data : Nat) (s : State) : (hostWrite addr width data s).hostLog = s.hostLog ++ [.write addr width data (memWrite addr width data)] := rfl

/-! ## setPc -/

@[simp] theorem setPc_fg_fgPc (a : Addr) (s : State) : (setPc .fg a s).fgPc = a := rfl
@[simp] theorem setPc_fg_isrPc (a : Addr) (s : State) : (setPc .fg a s).isrPc = s.isrPc := rfl
@[simp] theorem setPc_fg_idx (a : Addr) (s : State) : (setPc .fg a s).idx = s.idx := rfl
@[simp] theorem setPc_fg_passRem (a : Addr) (s : State) : (setPc .fg a s).passRem = s.passRem := rfl
@[simp] theorem setPc_fg_chA (a : Addr) (s : State) : (setPc .fg a s).chA = s.chA := rfl
@[simp] theorem setPc_fg_chB (a : Addr) (s : State) : (setPc .fg a s).chB = s.chB := rfl
@[simp] theorem setPc_fg_ind (a : Addr) (s : State) : (setPc .fg a s).ind = s.ind := rfl
@[simp] theorem setPc_fg_last (a : Addr) (s : State) : (setPc .fg a s).last = s.last := rfl
@[simp] theorem setPc_fg_en (a : Addr) (s : State) : (setPc .fg a s).en = s.en := rfl
@[simp] theorem setPc_fg_pend (a : Addr) (s : State) : (setPc .fg a s).pend = s.pend := rfl
@[simp] theorem setPc_fg_irqEn (a : Addr) (s : State) : (setPc .fg a s).irqEn = s.irqEn := rfl
@[simp] theorem setPc_fg_inIsr (a : Addr) (s : State) : (setPc .fg a s).inIsr = s.inIsr := rfl
@[simp] theorem setPc_fg_slotFull (a : Addr) (s : State) : (setPc .fg a s).slotFull = s.slotFull := rfl
@[simp] theorem setPc_fg_owned (a : Addr) (s : State) : (setPc .fg a s).owned = s.owned := rfl
@[simp] theorem setPc_fg_armed (a : Addr) (s : State) : (setPc .fg a s).armed = s.armed := rfl
@[simp] theorem setPc_fg_fgWaitActive (a : Addr) (s : State) : (setPc .fg a s).fgWaitActive = s.fgWaitActive := rfl
@[simp] theorem setPc_fg_fgWaitRem (a : Addr) (s : State) : (setPc .fg a s).fgWaitRem = s.fgWaitRem := rfl
@[simp] theorem setPc_fg_debActive (a : Addr) (s : State) : (setPc .fg a s).debActive = s.debActive := rfl
@[simp] theorem setPc_fg_debRem (a : Addr) (s : State) : (setPc .fg a s).debRem = s.debRem := rfl
@[simp] theorem setPc_fg_fatal (a : Addr) (s : State) : (setPc .fg a s).fatal = s.fatal := rfl
@[simp] theorem setPc_fg_time (a : Addr) (s : State) : (setPc .fg a s).time = s.time := rfl
@[simp] theorem setPc_fg_btn (a : Addr) (s : State) : (setPc .fg a s).btn = s.btn := rfl
@[simp] theorem setPc_fg_outLog (a : Addr) (s : State) : (setPc .fg a s).outLog = s.outLog := rfl
@[simp] theorem setPc_fg_diagLog (a : Addr) (s : State) : (setPc .fg a s).diagLog = s.diagLog := rfl
@[simp] theorem setPc_fg_cfg (a : Addr) (s : State) : (setPc .fg a s).cfg = s.cfg := rfl
@[simp] theorem setPc_fg_rom (a : Addr) (s : State) : (setPc .fg a s).rom = s.rom := rfl
@[simp] theorem setPc_fg_schedule (a : Addr) (s : State) : (setPc .fg a s).schedule = s.schedule := rfl
@[simp] theorem setPc_fg_startupOk (a : Addr) (s : State) : (setPc .fg a s).startupOk = s.startupOk := rfl
@[simp] theorem setPc_fg_hostLog (a : Addr) (s : State) : (setPc .fg a s).hostLog = s.hostLog := rfl

@[simp] theorem setPc_isr_fgPc (a : Addr) (s : State) : (setPc .isr a s).fgPc = s.fgPc := rfl
@[simp] theorem setPc_isr_isrPc (a : Addr) (s : State) : (setPc .isr a s).isrPc = a := rfl
@[simp] theorem setPc_isr_idx (a : Addr) (s : State) : (setPc .isr a s).idx = s.idx := rfl
@[simp] theorem setPc_isr_passRem (a : Addr) (s : State) : (setPc .isr a s).passRem = s.passRem := rfl
@[simp] theorem setPc_isr_chA (a : Addr) (s : State) : (setPc .isr a s).chA = s.chA := rfl
@[simp] theorem setPc_isr_chB (a : Addr) (s : State) : (setPc .isr a s).chB = s.chB := rfl
@[simp] theorem setPc_isr_ind (a : Addr) (s : State) : (setPc .isr a s).ind = s.ind := rfl
@[simp] theorem setPc_isr_last (a : Addr) (s : State) : (setPc .isr a s).last = s.last := rfl
@[simp] theorem setPc_isr_en (a : Addr) (s : State) : (setPc .isr a s).en = s.en := rfl
@[simp] theorem setPc_isr_pend (a : Addr) (s : State) : (setPc .isr a s).pend = s.pend := rfl
@[simp] theorem setPc_isr_irqEn (a : Addr) (s : State) : (setPc .isr a s).irqEn = s.irqEn := rfl
@[simp] theorem setPc_isr_inIsr (a : Addr) (s : State) : (setPc .isr a s).inIsr = s.inIsr := rfl
@[simp] theorem setPc_isr_slotFull (a : Addr) (s : State) : (setPc .isr a s).slotFull = s.slotFull := rfl
@[simp] theorem setPc_isr_owned (a : Addr) (s : State) : (setPc .isr a s).owned = s.owned := rfl
@[simp] theorem setPc_isr_armed (a : Addr) (s : State) : (setPc .isr a s).armed = s.armed := rfl
@[simp] theorem setPc_isr_fgWaitActive (a : Addr) (s : State) : (setPc .isr a s).fgWaitActive = s.fgWaitActive := rfl
@[simp] theorem setPc_isr_fgWaitRem (a : Addr) (s : State) : (setPc .isr a s).fgWaitRem = s.fgWaitRem := rfl
@[simp] theorem setPc_isr_debActive (a : Addr) (s : State) : (setPc .isr a s).debActive = s.debActive := rfl
@[simp] theorem setPc_isr_debRem (a : Addr) (s : State) : (setPc .isr a s).debRem = s.debRem := rfl
@[simp] theorem setPc_isr_fatal (a : Addr) (s : State) : (setPc .isr a s).fatal = s.fatal := rfl
@[simp] theorem setPc_isr_time (a : Addr) (s : State) : (setPc .isr a s).time = s.time := rfl
@[simp] theorem setPc_isr_btn (a : Addr) (s : State) : (setPc .isr a s).btn = s.btn := rfl
@[simp] theorem setPc_isr_outLog (a : Addr) (s : State) : (setPc .isr a s).outLog = s.outLog := rfl
@[simp] theorem setPc_isr_diagLog (a : Addr) (s : State) : (setPc .isr a s).diagLog = s.diagLog := rfl
@[simp] theorem setPc_isr_cfg (a : Addr) (s : State) : (setPc .isr a s).cfg = s.cfg := rfl
@[simp] theorem setPc_isr_rom (a : Addr) (s : State) : (setPc .isr a s).rom = s.rom := rfl
@[simp] theorem setPc_isr_schedule (a : Addr) (s : State) : (setPc .isr a s).schedule = s.schedule := rfl
@[simp] theorem setPc_isr_startupOk (a : Addr) (s : State) : (setPc .isr a s).startupOk = s.startupOk := rfl
@[simp] theorem setPc_isr_hostLog (a : Addr) (s : State) : (setPc .isr a s).hostLog = s.hostLog := rfl

@[simp] theorem pcOf_fg (s : State) : pcOf .fg s = s.fgPc := rfl
@[simp] theorem pcOf_isr (s : State) : pcOf .isr s = s.isrPc := rfl

/-! ## The composed updates, in terms of the ones above -/

@[simp] theorem advance_fg (s : State) : advance .fg s = setPc .fg (s.fgPc + 1) s := rfl
@[simp] theorem advance_isr (s : State) : advance .isr s = setPc .isr (s.isrPc + 1) s := rfl
@[simp] theorem writeChA_eq (v : Duty) (s : State) : writeChA v s = emitOut (.chA s.time v) { s with chA := v } := rfl
@[simp] theorem writeChB_eq (v : Duty) (s : State) : writeChB v s = emitOut (.chB s.time v) { s with chB := v } := rfl
@[simp] theorem writeInd_eq (v : Bool) (s : State) : writeInd v s = emitOut (.ind s.time v) { s with ind := v } := rfl

end Sys2Proof.Machine
end

