-- ==== Sys2Proof/Laws/Step.lean ====
section
/-! SUPPORT. What a step can do, said once for each shared operation: if it answers `next t`, then one of these cases. -/

namespace Sys2Proof.Machine

theorem next_inj {s t : State} (h : (Host.Outcome.next s : Host.Outcome State Fault Refusal) = .next t) : s = t := by
  injection h

/-! ## Waits -/

/-- A foreground wait micro-op issues its wait or completes it. -/
theorem waitForeground_cases {us : Nat} {s t : State} (h : waitForeground us s = .next t) :
    (s.fgWaitActive = false ∧ t = { s with fgWaitActive := true, fgWaitRem := us }) ∨
    (s.fgWaitActive = true ∧ s.fgWaitRem = 0 ∧ t = { s with fgWaitActive := false, fgPc := s.fgPc + 1 }) := by
  unfold waitForeground at h
  split at h
  · exact .inl ⟨‹_›, (next_inj h).symm⟩
  · split at h
    · exact .inr ⟨Bool.not_eq_false _ ▸ ‹¬s.fgWaitActive = false›, ‹_›, (next_inj h).symm⟩
    · cases h

/-- DEBOUNCE issues its wait or completes it. -/
theorem waitHandler_cases {us : Nat} {s t : State} (h : waitHandler us s = .next t) :
    (s.debActive = false ∧ t = { s with debActive := true, debRem := us }) ∨
    (s.debActive = true ∧ s.debRem = 0 ∧ t = { s with debActive := false, isrPc := s.isrPc + 1 }) := by
  unfold waitHandler at h
  split at h
  · exact .inl ⟨‹_›, (next_inj h).symm⟩
  · split at h
    · exact .inr ⟨Bool.not_eq_false _ ▸ ‹¬s.debActive = false›, ‹_›, (next_inj h).symm⟩
    · cases h

/-! ## The enabling conditions as propositions (60_exceptions.md R215) -/

theorem entryEnabled_iff {s : State} :
    entryEnabled s = true ↔ s.fatal = .noFatal ∧ s.pend = true ∧ s.irqEn = true ∧ s.inIsr = false := by
  simp [entryEnabled, and_assoc]

theorem isrEnabled_iff {s : State} :
    isrEnabled s = true ↔ s.fatal = .noFatal ∧ s.inIsr = true ∧ ¬(s.debActive = true ∧ 0 < s.debRem) := by
  cases hd : s.debActive <;> simp [isrEnabled, hd, and_assoc]

theorem fgEnabled_iff {s : State} :
    fgEnabled s = true ↔ s.fatal = .noFatal ∧ s.inIsr = false ∧ ¬(s.pend = true ∧ s.irqEn = true) ∧
      ¬(s.fgWaitActive = true ∧ 0 < s.fgWaitRem) := by
  cases hi : s.inIsr <;> cases hp : s.pend <;> cases hw : s.fgWaitActive <;>
    by_cases hf : s.fatal = .noFatal <;> simp [fgEnabled, entryEnabled, hi, hp, hw, hf]

/-! ## Steps -/

/-- A sequencer step executes the decoded micro-op or raises IllegalMicroOp. -/
theorem sequencerStep_cases {ctx : Context} {s t : State} (h : sequencerStep ctx s = .next t) :
    (∃ i, decode ctx (fetchWord ctx s) = .ok i ∧ exec i s = .next t) ∨
    (∃ e, decode ctx (fetchWord ctx s) = .error e ∧ t = raiseFatal .illegalMicroOp s) := by
  unfold sequencerStep at h
  split at h
  · exact .inl ⟨_, ‹_›, h⟩
  · exact .inr ⟨_, ‹_›, (next_inj h).symm⟩

/-- The block's own step is an interrupt entry or a step of the enabled sequencer. -/
theorem blockStep_cases {s t : State} (h : blockStep s = .next t) :
    (entryEnabled s = true ∧ t = enterInterrupt s) ∨
    (∃ ctx i, contextEnabled ctx s = true ∧ decode ctx (fetchWord ctx s) = .ok i ∧ exec i s = .next t) ∨
    (∃ ctx e, contextEnabled ctx s = true ∧ decode ctx (fetchWord ctx s) = .error e ∧
      t = raiseFatal .illegalMicroOp s) := by
  unfold blockStep at h
  split at h
  · exact .inl ⟨‹_›, (next_inj h).symm⟩
  · split at h
    · rcases sequencerStep_cases h with ⟨i, hd, he⟩ | ⟨e, hd, ht⟩
      · exact .inr (.inl ⟨.isr, i, ‹_›, hd, he⟩)
      · exact .inr (.inr ⟨.isr, e, ‹_›, hd, ht⟩)
    · split at h
      · rcases sequencerStep_cases h with ⟨i, hd, he⟩ | ⟨e, hd, ht⟩
        · exact .inr (.inl ⟨.fg, i, ‹_›, hd, he⟩)
        · exact .inr (.inr ⟨.fg, e, ‹_›, hd, ht⟩)
      · cases h

theorem tickStep_cases {s t : State} (h : tickStep s = .next t) : tickEnabled s = true ∧ t = tick s := by
  unfold tickStep at h
  split at h
  · exact ⟨‹_›, (next_inj h).symm⟩
  · cases h

/-- A machine that exists takes the scheduled step. -/
theorem step_of_admitted {s : State} (h : s.Admitted) : step s = scheduledStep s := by simp [step, h.1, h.2]

/-- Only a machine that exists has a next state. -/
theorem admitted_of_next {s t : State} (h : step s = .next t) : s.Admitted := by
  unfold step at h
  split at h
  · split at h
    · exact ⟨‹_›, ‹_›⟩
    · cases h
  · cases h

/-- What a step that answers `next` did: the block's own step, a tick, or a move of ENV or HOST, each on the state whose
schedule is what remains of it. -/
theorem step_cases {s t : State} (h : step s = .next t) :
    s.Admitted ∧ ∃ rest,
      ((s.schedule = [] ∧ rest = []) ∨ ∃ m, s.schedule = m :: rest) ∧
      (blockStep { s with schedule := rest } = .next t ∨
       (tickEnabled s = true ∧ t = tick { s with schedule := rest }) ∨
       (∃ level, s.schedule = .button level :: rest ∧ t = setButton level { s with schedule := rest }) ∨
       (∃ ok, s.schedule = .startup ok :: rest ∧ t = { s with schedule := rest, startupOk := ok }) ∨
       (∃ level, s.schedule = .reset level :: rest ∧ t = applyReset level { s with schedule := rest }) ∨
       (∃ addr width, s.schedule = .hostRead addr width :: rest ∧ t = hostRead addr width { s with schedule := rest }) ∨
       (∃ addr width data, s.schedule = .hostWrite addr width data :: rest ∧
          t = hostWrite addr width data { s with schedule := rest })) := by
  have hadm := admitted_of_next h
  refine ⟨hadm, ?_⟩
  · rw [step_of_admitted hadm] at h
    unfold scheduledStep at h
    split at h
    · rename_i hs
      refine ⟨[], .inl ⟨hs, rfl⟩, ?_⟩
      have hsame : { s with schedule := [] } = s := by rw [← hs]
      rw [hsame]
      unfold unscheduledStep at h
      split at h
      · exact .inl h
      · exact .inr (.inl (tickStep_cases h))
    · rename_i m rest hs
      refine ⟨rest, .inr ⟨m, hs⟩, ?_⟩
      cases m with
      | block => exact .inl h
      | tick => exact .inr (.inl (tickStep_cases h))
      | button level => exact .inr (.inr (.inl ⟨level, hs, (next_inj h).symm⟩))
      | startup ok => exact .inr (.inr (.inr (.inl ⟨ok, hs, (next_inj h).symm⟩)))
      | reset level => exact .inr (.inr (.inr (.inr (.inl ⟨level, hs, (next_inj h).symm⟩))))
      | hostRead addr width => exact .inr (.inr (.inr (.inr (.inr (.inl ⟨addr, width, hs, (next_inj h).symm⟩)))))
      | hostWrite addr width data =>
        exact .inr (.inr (.inr (.inr (.inr (.inr ⟨addr, width, data, hs, (next_inj h).symm⟩)))))

/-- With nothing scheduled and an enabled block, a step is the block's own. -/
theorem step_of_block {s : State} (hc : s.Admitted) (hs : s.schedule = []) (hb : blockEnabled s = true) :
    step s = blockStep s := by
  simp [step_of_admitted hc, scheduledStep, hs, unscheduledStep, hb]

/-- With nothing scheduled and no step of the block enabled, a step is a tick. -/
theorem step_of_quiet {s : State} (hc : s.Admitted) (hs : s.schedule = []) (hb : blockEnabled s = false) :
    step s = .next (tick s) := by
  simp [step_of_admitted hc, scheduledStep, hs, unscheduledStep, hb, tickStep, tickEnabled]

/-! ## Runs -/

theorem runSteps_add (j k : Nat) {s t : State} (h : runSteps j s = .next t) : runSteps (j + k) s = runSteps k t := by
  induction j generalizing s with
  | zero => rw [next_inj h, Nat.zero_add]
  | succ j ih =>
    rw [Nat.succ_add]
    simp only [runSteps] at h ⊢
    split at h
    · exact ih h
    · cases h
    · cases h

theorem reaches_refl (s : State) : Reaches s s := ⟨0, rfl⟩

theorem reaches_trans {s t u : State} (h₁ : Reaches s t) (h₂ : Reaches t u) : Reaches s u := by
  obtain ⟨j, hj⟩ := h₁
  obtain ⟨k, hk⟩ := h₂
  exact ⟨j + k, by rw [runSteps_add j k hj, hk]⟩

theorem reaches_step {s t : State} (h : step s = .next t) : Reaches s t := ⟨1, by simp [runSteps, h]⟩

/-- A property that every step keeps holds in every state that is reached. -/
theorem reaches_keeps {P : State → Prop} (hstep : ∀ s t, P s → step s = .next t → P t) {s t : State} (hs : P s)
    (h : Reaches s t) : P t := by
  obtain ⟨k, hk⟩ := h
  induction k generalizing s with
  | zero => rw [← next_inj hk]; exact hs
  | succ k ih =>
    simp only [runSteps] at hk
    split at hk
    · exact ih (hstep _ _ hs ‹_›) hk
    · cases hk
    · cases hk

end Sys2Proof.Machine
end

