-- ==== Sys2Proof/Tests/Slice0.lean ====
section
/-! SUPPORT. The model's own tests: ill-formed terms, words written out from 30_encoding.md R84, single steps with the results of
spec/95_test_vectors.md, and a state or operand that meets the hypotheses of each statement. -/

namespace Sys2Proof.Tests

open Sys2Proof.Machine

/-- Configuration A of spec/95_test_vectors.md. -/
def configA : Config :=
  { Config.reference with n := 4, fHz := 25000, dead := 100, gapUs := 1, debounceUs := 50 }

/-- The reset state in configuration A. -/
def resetA : State := State.initial configA [] true true [] [] [] []

/-- `resetA` in FreeRun. -/
def resetFree : State := State.initial { configA with variant := .freeRun } [] true true [] [] [] []

/-- The next state, if there is one. -/
def answer : Host.Outcome State Fault Refusal → Option State
  | .next t => some t
  | .fault _ => none
  | .refused _ => none

/-- The state after `k` steps (`s` where they stop). -/
def after (k : Nat) (s : State) : State := (answer (runSteps k s)).getD s

/-! ## Well-formedness -/

theorem test_reference_is_well_formed : Config.reference.wf = true ∧ configA.wf = true := by decide
theorem test_wf_samples : (Config.wfSamples { configA with n := 0 }) = false ∧
    (Config.wfSamples { configA with n := 65536 }) = false := by decide
theorem test_wf_frequency : (Config.wfFrequency { configA with fHz := 0 }) = false ∧
    (Config.wfFrequency { configA with fHz := 65536 }) = false := by decide
theorem test_wf_full_scale : (Config.wfFullScale { configA with fs := 0 }) = false ∧
    (Config.wfFullScale { configA with fs := 65536 }) = false := by decide
theorem test_wf_dead_time : (Config.wfDeadTime { configA with dead := 65536 }) = false := by decide
/-- 95_test_vectors.md §6: F_HZ 10001 with N 100 is refused. -/
theorem test_wf_sample_rate : (Config.wfSampleRate { configA with fHz := 10001, n := 100 }) = false := by decide
theorem test_wf_gap : (Config.wfGap { configA with gapUs := 0 }) = false ∧
    (Config.wfGap { configA with gapUs := 10 }) = false ∧ (Config.wfGap { configA with gapUs := 9 }) = true := by decide
theorem test_wf_debounce : (Config.wfDebounce { configA with debounceUs := 2 ^ 32 }) = false := by decide
theorem test_wf_context : Instr.wf .fg .take = false ∧ Instr.wf .isr .wra = false ∧ Instr.wf .isr .reti = true := by decide
theorem test_ill_formed_step : step (State.initial { configA with n := 0 } [] true true [] [] [] []) =
    .refused .illFormedConfig := rfl

/-! ## Decoding: words written out as OP (5 bits) and A (11 bits) -/

theorem test_decode_boot : decode .fg (0b00001_00000000000) = .ok .init ∧ decode .fg (0b00010_00000000000) = .ok .put ∧
    decode .fg (0b00011_00000000000) = .ok .unmask := by decide
theorem test_decode_control : decode .fg (0b00100_00000001101) = .ok (.poll 13) ∧
    decode .fg (0b00101_00000000001) = .ok (.setind true) ∧ decode .fg (0b00101_00000000000) = .ok (.setind false) ∧
    decode .fg (0b01100_00000000001) = .ok (.diag true) ∧ decode .fg (0b01111_00000000000) = .ok .gap ∧
    decode .fg (0b10000_00000010001) = .ok (.jmp 17) := by decide
theorem test_decode_streamer : decode .fg (0b00110_00000000000) = .ok .passinit ∧
    decode .fg (0b00111_00000000000) = .ok .wra ∧ decode .fg (0b01000_00000000000) = .ok .wrb ∧
    decode .fg (0b01001_00000000000) = .ok .inc ∧ decode .fg (0b01010_00000000000) = .ok .waits ∧
    decode .fg (0b01011_00000000110) = .ok (.passnext 6) ∧ decode .fg (0b01101_00000000000) = .ok .za ∧
    decode .fg (0b01110_00000000000) = .ok .zb := by decide
theorem test_decode_handler : decode .isr (0b10001_00000000000) = .ok .take ∧
    decode .isr (0b10010_00000100101) = .ok (.test 37) ∧ decode .isr (0b10011_00000000000) = .ok .toggle ∧
    decode .isr (0b10100_00000000000) = .ok .clear ∧ decode .isr (0b10101_00000000000) = .ok .debounce ∧
    decode .isr (0b10110_00000000000) = .ok .reti := by decide
/-- 95_test_vectors.md §2.2. -/
theorem test_decode_illegal : decode .fg 0x0000 = .error .opcode ∧ decode .isr 0xB800 = .error .opcode ∧
    decode .fg 0x0801 = .error .operand ∧ decode .fg 0x2C01 = .error .operand ∧ decode .fg 0x6003 = .error .operand ∧
    decode .isr 0xB001 = .error .operand ∧ decode .fg 0x8800 = .error .context ∧
    decode .isr 0x3800 = .error .context := by decide
theorem test_decode_targets : decode .fg 0x27FF = .ok (.poll 2047) ∧ decode .fg 0x87FF = .ok (.jmp 2047) ∧
    decode .isr 0x9000 = .ok (.test 0) := by decide
theorem test_table_word : decodeTableWord 16 0x9025 = some (.test 37) ∧ decodeTableWord 16 0x200D = some (.poll 13) ∧
    decodeTableWord 16 0x0000 = none := by decide
/-- `withFetchWord` runs an FG word and an ISR word as the first step after reset, and a branch to where it would stand. -/
theorem test_placed_words : (answer (step (State.reset.withFetchWord 16 0x8003))).map (·.fgPc) = some 3 ∧
    (answer (step (State.reset.withFetchWord 16 0x9800))).map (·.en) = some true ∧
    (answer (step (State.reset.withFetchWord 16 0x8000))).map (·.fgPc) = some 0 ∧
    (answer (step (State.reset.withFetchWord 16 0x8013))).map (·.fgPc) = some 19 ∧
    (answer (step (State.reset.withFetchWord 16 0x9026))).map (·.isrPc) = some 38 := by decide +kernel
/-- 93_implementation_defined.md V7: `JMP a` at a, and POLL, PASSNEXT and JMP without a wait between them. -/
theorem test_zero_time_loop : step { resetA with rom := [(18, 0x8012)] } = .refused .zeroTimeLoop ∧
    step { resetA with rom := programRom [(0, 0x2001), (1, 0x5802), (2, 0x8000)] } = .refused .zeroTimeLoop := by
  exact ⟨rfl, rfl⟩
/-- Program P6b jumps to address 19, and is no loop. -/
theorem test_no_zero_time_loop : letsTimePass [(18, 0x8013)] = true ∧ letsTimePass (programRom [(0, 0x7800), (1, 0x8000)]) =
    true := by decide +kernel

/-! ## Micro-ops: the vectors of 95_test_vectors.md §4 -/

theorem test_init : exec .init resetA = .next { resetA with armed := true, fgPc := 1 } := rfl
theorem test_init_fails : exec .init { resetA with startupOk := false } =
    .next { resetA with startupOk := false, fatal := .startupFault } := rfl
theorem test_put : exec .put { resetA with fgPc := 1 } = .next { resetA with slotFull := true, fgPc := 2 } := rfl
theorem test_put_free_run : exec .put { resetFree with fgPc := 1 } = .next { resetFree with fgPc := 2 } := rfl
theorem test_unmask : exec .unmask { resetA with fgPc := 2 } = .next { resetA with irqEn := true, fgPc := 3 } := rfl
theorem test_poll : exec (.poll 13) { resetA with fgPc := 3 } = .next { resetA with fgPc := 13 } := rfl
theorem test_poll_enabled : exec (.poll 13) { resetFree with fgPc := 3 } = .next { resetFree with fgPc := 4 } := rfl
theorem test_setind : exec (.setind true) { resetA with fgPc := 4, time := 55 } =
    .next { resetA with fgPc := 5, time := 55, ind := true, outLog := [.ind 55 true] } := rfl
theorem test_passinit : exec .passinit { resetA with fgPc := 5 } = .next { resetA with fgPc := 6, passRem := 4 } := rfl
theorem test_wra : (answer (exec .wra { resetA with fgPc := 6, idx := 1, time := 65, chA := 32668, chB := 32667 })).map
    (fun t => (t.fgPc, t.chA, t.chB, t.outLog)) = some (7, 65435, 32667, [.chA 65 65435]) := by decide +kernel
theorem test_wra_saturated : (answer (exec .wra { resetA with idx := 3, chA := 32668 })).map (·.chA) = some 0 := by
  decide +kernel
theorem test_wrb : (answer (exec .wrb { resetA with fgPc := 7, chB := 0 })).map (fun t => (t.fgPc, t.chA, t.chB)) =
    some (8, 0, 32667) := by decide +kernel
theorem test_wra_beyond_table : exec .wra { resetA with idx := 4 } = .fault .tableIndexOutOfRange := rfl
theorem test_inc : exec .inc { resetA with fgPc := 8 } = .next { resetA with fgPc := 9, idx := 1 } := rfl
theorem test_inc_wraps : exec .inc { resetA with fgPc := 8, idx := 3 } = .next { resetA with fgPc := 9, idx := 0 } := rfl
theorem test_waits_issue : exec .waits { resetA with fgPc := 9 } =
    .next { resetA with fgPc := 9, fgWaitActive := true, fgWaitRem := 10 } := rfl
theorem test_waits_complete : exec .waits { resetA with fgPc := 9, fgWaitActive := true } =
    .next { resetA with fgPc := 10 } := rfl
theorem test_passnext : exec (.passnext 6) { resetA with fgPc := 10, passRem := 4 } =
    .next { resetA with fgPc := 6, passRem := 3 } := rfl
theorem test_passnext_last : exec (.passnext 6) { resetA with fgPc := 10, passRem := 1 } =
    .next { resetA with fgPc := 11, passRem := 0 } := rfl
theorem test_diag : exec (.diag true) { resetA with fgPc := 11, time := 95 } =
    .next { resetA with fgPc := 12, time := 95, last := true, diagLog := [⟨95, true⟩] } := rfl
theorem test_diag_once : exec (.diag true) { resetA with fgPc := 11, last := true } =
    .next { resetA with fgPc := 12, last := true } := rfl
theorem test_za : exec .za { resetA with fgPc := 14, time := 7, chA := 65435 } =
    .next { resetA with fgPc := 15, time := 7, outLog := [.chA 7 0] } := rfl
theorem test_zb : exec .zb { resetA with fgPc := 15, time := 7, chB := 32667 } =
    .next { resetA with fgPc := 16, time := 7, outLog := [.chB 7 0] } := rfl
theorem test_gap_issue : exec .gap { resetA with fgPc := 17 } =
    .next { resetA with fgPc := 17, fgWaitActive := true, fgWaitRem := 1 } := rfl
theorem test_gap_complete : exec .gap { resetA with fgPc := 17, fgWaitActive := true } =
    .next { resetA with fgPc := 18 } := rfl
theorem test_jmp : exec (.jmp 3) { resetA with fgPc := 18 } = .next { resetA with fgPc := 3 } := rfl
theorem test_take : exec .take { resetA with slotFull := true } = .next { resetA with owned := true, isrPc := 33 } := rfl
theorem test_take_empty : exec .take resetA = .next { resetA with fatal := .handoffEmpty } := rfl
theorem test_test : exec (.test 37) { resetA with isrPc := 33, pend := true } =
    .next { resetA with isrPc := 34, pend := true } := rfl
theorem test_test_clear : exec (.test 37) { resetA with isrPc := 33 } = .next { resetA with isrPc := 37 } := rfl
theorem test_toggle : exec .toggle { resetA with isrPc := 34 } = .next { resetA with isrPc := 35, en := true } := rfl
theorem test_clear : exec .clear { resetA with isrPc := 35, pend := true } = .next { resetA with isrPc := 36 } := rfl
theorem test_debounce_issue : exec .debounce { resetA with isrPc := 36 } =
    .next { resetA with isrPc := 36, debActive := true, debRem := 50 } := rfl
theorem test_debounce_complete : exec .debounce { resetA with isrPc := 36, debActive := true } =
    .next { resetA with isrPc := 37 } := rfl
theorem test_reti : exec .reti { resetA with isrPc := 37, inIsr := true } = .next { resetA with isrPc := 37 } := rfl

/-! ## Ticks, the latch, entry, fatal conditions, reset -/

theorem test_tick_elapsed : tick { resetA with inIsr := true, fgWaitActive := true, fgWaitRem := 5 } =
    { resetA with inIsr := true, fgWaitActive := true, fgWaitRem := 4, time := 1 } := rfl
theorem test_tick_executed : (tick
    { resetA with cfg := { configA with waitMode := .executed }, inIsr := true, fgWaitActive := true, fgWaitRem := 5 }).fgWaitRem =
    5 := rfl
theorem test_tick_fatal : (tick
    { resetA with fatal := .illegalMicroOp, fgWaitActive := true, fgWaitRem := 5 }).fgWaitRem = 5 := rfl
theorem test_press_latches : (setButton false { resetA with armed := true }).pend = true ∧
    (setButton false { resetA with armed := true, inIsr := true }).pend = false ∧
    (setButton true { resetA with armed := true, btn := false }).pend = false := by decide
theorem test_entry : step { resetA with pend := true, irqEn := true, fgPc := 9, fgWaitActive := true, fgWaitRem := 7 } =
    .next { resetA with
      pend := true, irqEn := true, fgPc := 9, fgWaitActive := true, fgWaitRem := 7, inIsr := true, isrPc := 32 } := rfl
/-- Program P6b: the fetch at address 19 raises IllegalMicroOp and leaves the pc. -/
theorem test_illegal_word : (answer (step { resetA with fgPc := 19 })).map (fun t => (t.fatal, t.fgPc)) =
    some (.illegalMicroOp, 19) := by decide
theorem test_reset_marker : (applyReset true { resetA with time := 70, chA := 5, outLog := [.chA 60 5] }).outLog =
    [.chA 60 5, .reset 70] := rfl
theorem test_tick_not_enabled : step { resetA with schedule := [.tick] } = .refused .stepNotEnabled := rfl

/-! ## The table and the bus -/

/-- 95_test_vectors.md, configuration A. -/
theorem test_generate_four : generate 65535 4 100 =
    some [(32668, 32667), (65435, 0), (32668, 32667), (0, 65435)] := by decide +kernel
/-- 95_test_vectors.md §3.1, D = 100. -/
theorem test_generate_hundred : (([0, 1, 24, 25] : List Nat).map fun i => dutyPair 100 100 65535 i) =
    [(32668, 32667), (34725, 30610), (65370, 0), (65435, 0)] := by decide +kernel
/-- 95_test_vectors.md §5, the end of program P1. -/
theorem test_bus_status : memRead { resetA with
    en := true, ind := true, last := true, irqEn := true, owned := true, fgWaitActive := true, armed := true } 0 4 =
    .data 0x0000C157 := by decide
theorem test_bus_configuration : memRead resetA 0x18 4 = .data 0x00640004 ∧ memRead resetA 0x1C 4 = .data 0x61A8FFFF ∧
    memRead resetA 0x20 4 = .data 10 := by decide
theorem test_bus_pcs : memRead { resetA with fgPc := 9, isrPc := 37 } 0x0C 4 = .data 0x00250009 := by decide
theorem test_bus_table : memRead resetA 0x40004 4 = .data 0x0000FF9B ∧ memRead resetA 0x40010 4 = .data 0 := by
  decide +kernel
theorem test_bus_errors : memRead resetA 0x100000 4 = .busError ∧ memRead resetA 2 4 = .busError ∧
    memRead resetA 8 2 = .busError := by decide
theorem test_byte_order : busByte 0x7F9B7F9C 0 = 0x9C ∧ busByte 0x7F9B7F9C 3 = 0x7F := by decide
/-- 00_scope.md R9: TOOL_N and TOOL_DEAD range as N and DEAD. -/
theorem test_tool_ranges : runTool { configA with toolN := 0 } = none ∧ runTool { configA with toolN := 65536 } = none ∧
    runTool { configA with toolDead := 65536 } = none ∧ toolWf { configA with toolN := 65535, toolDead := 65535 } = true := by
  decide
theorem test_rom_wf : Memory.wf State.reset.rom ∧ Memory.wf (Memory.write [] 18 0x8013) := by decide
theorem test_rom_write_back : Memory.write (Memory.write [] 18 0x8013) 18 0x8003 = [] := by decide
theorem test_program_rom : Memory.read (programRom [(0, 0x8000)]) 0 = 0x8000 ∧
    Memory.read (programRom [(0, 0x8000)]) 1 = 0x0000 := by decide
theorem test_assembler_refusals : assemble ["DIAG 7".toList] = .error .valueNotABit ∧
    assemble ["TEST 0x800".toList] = .error .targetOutOfRange ∧ assemble ["PUT 1".toList] = .error .unexpectedOperand := by
  decide +kernel

/-! ## States and operands that meet the hypotheses of the statements, clause by clause -/

/-- The handler's first micro-op is next: the interrupt of program P1 has just been entered. -/
def handlerA : State := { resetA with
  fgPc := 17, armed := true, slotFull := true, irqEn := true, inIsr := true, pend := true, btn := false }

/-- The foreground is at POLL after the boot, in Ideal time, with EN as given. -/
def loopA (en : Bool) : State := { resetA with fgPc := 3, armed := true, slotFull := true, irqEn := true, en := en }

theorem test_witness_IllFormedConfigurationsAreRefused :
    (State.initial { configA with n := 65536 } [] true true [] [] [] []).cfg.wf = false := by decide
theorem test_witness_SampleIntervalIsTheFloorOfThePeriod :
    (Config.wf { configA with n := 3, fHz := 50000 }) = true ∧ (Config.sampleUs { configA with n := 3, fHz := 50000 }) = 6 ∧
      (Config.wf { configA with n := 1, fHz := 1 }) = true := by decide
theorem test_witness_CanonicalRomHoldsTheMicroPrograms :
    ([19, 31, 38, 2047].map fun a => Memory.read [] a) = [0x0000, 0x0000, 0x0000, 0x0000] := by decide
theorem test_witness_DecodeIsTotalAndRefusesTheIllegalWords :
    ([0x0000, 0xB800, 0x0801, 0x2802].map fun w => decode .fg w) =
      [.error .opcode, .error .opcode, .error .operand, .error .operand] ∧
    decode .fg 0x5FFF = .ok (.passnext 2047) := by decide
theorem test_witness_StepFetchesDecodesAndExecutes :
    resetA.Admitted ∧ handlerA.Admitted ∧ BlockNext resetA [] ∧ BlockNext { resetA with schedule := [.block, .tick] } [.tick] ∧
    fgEnabled resetA = true ∧ decode .fg (Memory.read resetA.rom resetA.fgPc.toNat) = .ok .init ∧
    fgEnabled { resetA with fgPc := 19 } = true ∧ decode .fg (Memory.read resetA.rom 19) = .error .opcode ∧
    isrEnabled handlerA = true ∧ decode .isr (Memory.read handlerA.rom handlerA.isrPc.toNat) = .ok .take ∧
    isrEnabled { handlerA with isrPc := 6 } = true ∧ decode .isr (Memory.read handlerA.rom 6) = .error .context :=
  ⟨by decide, by decide, .inr ⟨rfl, rfl⟩, .inl rfl, by decide, by decide, by decide, by decide, by decide, by decide, by decide, by decide⟩
theorem test_witness_InterruptEntryStartsTheHandler :
    BlockNext { handlerA with inIsr := false } [] ∧ entryEnabled { handlerA with inIsr := false } = true ∧
    (answer (step { handlerA with inIsr := false })).map (·.inIsr) = some true := ⟨.inr ⟨rfl, rfl⟩, by decide, by decide⟩
theorem test_witness_EnabledStepsExcludeOneAnother :
    (answer (step { resetA with schedule := [.tick] })).isNone = true ∧
    (answer (step { resetA with schedule := [.tick], fgWaitActive := true, fgWaitRem := 1 })).isSome = true ∧
    (blockEnabled { resetA with schedule := [.block], fgWaitActive := true, fgWaitRem := 1 } = false) ∧
    (answer (step { resetA with schedule := [.hostRead 0 4] })).isSome = true := by decide
theorem test_witness_TickAdvancesTimeAndWaits :
    (answer (step { resetA with fgWaitActive := true, fgWaitRem := 1 })).map (fun t => (t.time, t.fgWaitRem)) = some (1, 0) ∧
    (answer (step { handlerA with isrPc := 36, debActive := true, debRem := 1, schedule := [.tick] })).map
      (fun t => (t.time, t.debRem)) = some (1, 0) ∧
    (answer (step { resetA with cfg := { configA with timeMode := .relaxed }, schedule := [.tick] })).map (·.time) =
      some 1 := by decide
theorem test_witness_EdgeLatchTakesArmedFallingEdges :
    (answer (step { resetA with armed := true, schedule := [.button false] })).map (fun t => (t.btn, t.pend)) =
      some (false, true) ∧
    (answer (step { resetA with schedule := [.button false] })).map (fun t => (t.btn, t.pend)) = some (false, false) := by
  decide
theorem test_witness_ResetAppendsTheMarkerAndRestoresTheState :
    (answer (step { handlerA with time := 9, schedule := [.reset false] })).map (fun t => (t.outLog, t.time, t.btn)) =
      some ([.reset 9], 0, false) := by decide
theorem test_witness_FatalStateHoldsUntilReset :
    ({ resetA with fatal := .handoffEmpty } : State).fatal ≠ .noFatal ∧ ¬ResetNext { resetA with fatal := .handoffEmpty } ∧
    (answer (step { resetA with fatal := .handoffEmpty })).map (·.time) = some 1 :=
  ⟨by decide, (by rintro ⟨l, r, h⟩; cases h), by decide⟩
theorem test_witness_HostAccessesChangeNothing :
    (answer (step { resetA with schedule := [.hostRead 0xFFFFC 4] })).map (·.hostLog) =
      some [.read 0xFFFFC 4 (.data 0)] ∧
    (answer (step { resetA with schedule := [.hostRead 0x100000 4] })).map (·.hostLog) =
      some [.read 0x100000 4 .busError] ∧
    (answer (step { resetA with schedule := [.hostWrite 0x00008 4 0] })).map (·.hostLog) =
      some [.write 0x00008 4 0 .acknowledged] := by decide
theorem test_witness_ObservationRegistersShowTheState : resetA.Inv := by
  refine ⟨?_, ?_, ?_, ?_, ?_, ?_, ?_, ?_, ?_, ?_, ?_, ?_⟩ <;> decide
theorem test_witness_TableWindowAndReservedAddresses :
    (tableEntry configA 3).isSome = true ∧ tableEntry configA 4 = none ∧
    ([0x34, 0x3FFFC, 0x80000, 0xFFFFC].map fun a => memRead resetA a 4) = [.data 0, .data 0, .data 0, .data 0] := by
  decide +kernel
theorem test_witness_BusBytesAreLittleEndian : memRead { resetA with chA := 32668, chB := 32667 } 8 4 =
    .data 0x7F9B7F9C := by decide
theorem test_witness_BootMicroOpsActInToggleOnly :
    resetA.startupOk = true ∧ resetA.cfg.variant = .toggle ∧ resetFree.cfg.variant = .freeRun := by decide
theorem test_witness_PassCountersCountAndWrap :
    ({ resetA with idx := 2 } : State).idx + 1 < resetA.cfg.n ∧ ({ resetA with idx := 3 } : State).idx + 1 = resetA.cfg.n ∧
    ({ resetA with passRem := 2 } : State).passRem = 0 + 2 ∧ resetA.passRem ≤ 1 := by decide
theorem test_witness_ChannelWritesAreLogged : ({ resetA with idx := 3 } : State).idx < resetA.cfg.n := by decide
theorem test_witness_ForegroundWaitsIssueAndComplete :
    resetA.fgWaitActive = false ∧
    ({ resetA with fgWaitActive := true } : State).fgWaitRem = 0 ∧
    0 < ({ resetA with fgWaitActive := true, fgWaitRem := 1 } : State).fgWaitRem := by decide
theorem test_witness_BranchesTestTheirBit : resetA.en = false ∧ resetFree.en = true ∧ resetA.pend = false ∧
    handlerA.pend = true := by decide
theorem test_witness_IndicatorAndDiagnostics :
    resetA.last ≠ true ∧ resetA.cfg.verbose = .on ∧ resetA.last = false ∧
    ({ configA with verbose := .off } : Config).verbose = .off := by decide
theorem test_witness_TakeMovesTheResourceOnce :
    ({ handlerA with owned := true } : State).owned = true ∧ handlerA.owned = false ∧ handlerA.slotFull = true ∧
    resetA.slotFull = false := by decide
theorem test_witness_DebounceIssuesAndCompletes :
    handlerA.debActive = false ∧ ({ handlerA with debActive := true } : State).debRem = 0 ∧
    0 < ({ handlerA with debActive := true, debRem := 1 } : State).debRem := by decide
theorem test_witness_FormsThatStop :
    resetA.cfg.n ≤ ({ resetA with idx := 4 } : State).idx ∧
    exec .gap { resetA with fgWaitActive := true, fgWaitRem := 1 } = .refused .stepNotEnabled ∧
    exec .debounce { handlerA with debActive := true, debRem := 1 } = .refused .stepNotEnabled := ⟨by decide, rfl, rfl⟩
/-- One step for every statement whose hypothesis is `step s = .next t` and no reset. -/
theorem test_witness_step_without_reset : step resetA = .next { resetA with armed := true, fgPc := 1 } ∧
    ¬ResetNext resetA := ⟨rfl, by rintro ⟨l, r, h⟩; cases h⟩
theorem test_witness_NoStepWritesRomOrConfiguration :
    stepWith configA [] resetA.toBlock = .next { resetA.toBlock with armed := true, fgPc := 1 } ∧
    stepWith { configA with n := 0 } [] resetA.toBlock = .refused .illFormedConfig ∧
    stepWith configA [] { resetA.toBlock with fgPc := 6, idx := 4 } = .fault .tableIndexOutOfRange := ⟨rfl, rfl, rfl⟩
theorem test_witness_LogsOnlyGrow : (answer (step { resetA with fgPc := 14 })).map (·.outLog) = some [.chA 0 0] := by
  decide
theorem test_witness_EnableFlagHasOneWriter :
    (answer (step { handlerA with isrPc := 34 })).map (·.en) = some true ∧ handlerA.en = false ∧
    ¬ResetNext { handlerA with isrPc := 34 } := ⟨by decide, by decide, by rintro ⟨l, r, h⟩; cases h⟩
theorem test_witness_OutputsChangeOnlyByTheirMicroOps :
    (answer (step { resetA with fgPc := 6 })).map (·.chA) = some 32668 ∧
    (answer (step { resetA with fgPc := 7 })).map (·.chB) = some 32667 ∧
    (answer (step { resetA with fgPc := 14, chA := 1 })).map (·.chA) = some 0 ∧
    (answer (step { resetA with fgPc := 15, chB := 1 })).map (·.chB) = some 0 ∧
    (answer (step { resetA with fgPc := 4 })).map (·.ind) = some true := by decide +kernel
theorem test_witness_HandlerNeitherReadsNorWritesForegroundState : Instr.context .debounce = .isr := rfl
theorem test_witness_ForegroundKeepsHandlerState :
    Instr.context .put = .fg ∧ (answer (exec .put resetA)).isSome = true := by decide
theorem test_witness_OnlyATickMovesTime :
    (answer (step { resetA with fgWaitActive := true, fgWaitRem := 5 })).map (·.time) = some 1 ∧
    ¬ResetNext { resetA with fgWaitActive := true, fgWaitRem := 5 } := ⟨by decide, by rintro ⟨l, r, h⟩; cases h⟩
theorem test_witness_WaitsLastAtLeastTheirLength :
    (answer (step { resetA with fgPc := 17, fgWaitActive := true, fgWaitRem := 5 })).map
      (fun t => (t.fgWaitActive, t.fgWaitRem + t.time)) = some (true, 5) ∧
    (answer (step { resetA with fgPc := 17, fgWaitActive := true })).map (·.fgWaitActive) = some false := by decide
theorem test_witness_VerbosityChangesOnlyTheDiagnostics :
    (answer (step { resetA with fgPc := 11 })).map (·.diagLog) = some [⟨0, true⟩] ∧
    step { resetA with fgPc := 6, idx := 4 } = .fault .tableIndexOutOfRange ∧
    step { resetA with schedule := [.tick] } = .refused .stepNotEnabled := ⟨by decide, rfl, rfl⟩
theorem test_witness_PowerUpMeetsTheInvariants : configA.wf = true ∧ Memory.wf (Memory.write [] 18 0x8013) ∧
    letsTimePass (Memory.write [] 18 0x8013) = true := by decide

/-- `resetA` meets the canonical invariant. -/
theorem test_witness_StepKeepsTheCanonicalInvariant : resetA.CanonicalInv := by
  refine ⟨test_witness_ObservationRegistersShowTheState, ?_, ?_, ?_, ?_, ?_, ?_, ?_, ?_, ?_⟩ <;> decide

/-- `resetA` meets the streamer invariant, and it steps. -/
theorem test_witness_StepKeepsTheStreamInvariant : resetA.StreamInv ∧ (answer (step resetA)).isSome = true := by
  refine ⟨⟨test_witness_StepKeepsTheCanonicalInvariant, ?_, ?_, ?_, ?_, ?_, ?_, ?_⟩, by decide⟩
  · decide
  · decide
  · decide
  · exact fun _ _ => .inl ⟨rfl, rfl⟩
  · decide
  · exact fun h => absurd h (by decide)
  · decide
theorem test_witness_StepKeepsTheStateInvariant : resetA.Inv ∧ (answer (step resetA)).isSome = true :=
  ⟨test_witness_ObservationRegistersShowTheState, by decide⟩
theorem test_witness_BlockNeverStops : resetA.Inv ∧ resetA.schedule = [] :=
  ⟨test_witness_ObservationRegistersShowTheState, rfl⟩
theorem test_witness_FreeRunNeverInterrupts : ({ configA with variant := .freeRun } : Config).wf = true ∧
    Reachable { configA with variant := .freeRun } [] { resetFree with fgPc := 1 } :=
  ⟨by decide, true, true, [], 1, rfl⟩
theorem test_witness_CanonicalProgramsFailOnlyAtStartup :
    Reachable configA [] { resetA with startupOk := false, fatal := .startupFault } ∧ Reachable configA [] resetA :=
  ⟨⟨true, false, [], 1, rfl⟩, true, true, [], 0, rfl⟩
theorem test_witness_IndexIsZeroAtPoll : Reachable configA [] (loopA false) ∧ (loopA false).fgPc = 3 :=
  ⟨⟨true, true, [], 3, rfl⟩, rfl⟩
theorem test_witness_OnlyProgramsThatLetTimePassRun :
    configA.wf = true ∧ letsTimePass [(18, 0x8012)] = false ∧ letsTimePass [(38, 0x9026)] = false := by decide
/-- The first pass of a FreeRun block reaches the two torn points and the fresh pair of advance 0. -/
theorem test_witness_ObservablePairsAreTableEntries :
    ([7, 8, 10].map fun k => ((after k resetFree).fgPc, (after k resetFree).chA, (after k resetFree).chB)) =
      [(7, 32668, 0), (8, 32668, 32667), (9, 32668, 32667)] ∧
    ((after 6 resetA).fgPc, (after 6 resetA).chA) = (15, 0) := by decide +kernel
theorem test_witness_BootRunsIntoThePausedLoop : configA.wf = true ∧ configA.variant = .toggle := by decide
theorem test_witness_PausedIterationHoldsTheOutputsAtZero :
    (loopA false).Undisturbed ∧ (loopA false).fgPc = 3 ∧ (loopA false).en = false := by
  refine ⟨⟨?_, ?_, ?_, ?_, ?_, ?_, ?_, ?_, ?_, ?_⟩, ?_, ?_⟩ <;> decide
theorem test_witness_RunningIterationStreamsTheTable :
    (loopA true).Undisturbed ∧ (loopA true).fgPc = 3 ∧ (loopA true).en = true ∧ (loopA true).idx = 0 := by
  refine ⟨⟨?_, ?_, ?_, ?_, ?_, ?_, ?_, ?_, ?_, ?_⟩, ?_, ?_, ?_⟩ <;> decide
theorem test_witness_HandlerInvocationTogglesOnce :
    entryEnabled { handlerA with inIsr := false } = true ∧ handlerA.slotFull = true ∧ handlerA.debActive = false ∧
    handlerA.debRem = 0 ∧ handlerA.cfg.timeMode = .ideal ∧ handlerA.cfg.wf = true := by decide
theorem test_witness_BounceInsideTheHandlerIsCollapsed :
    State.HandlerPhase false handlerA ∧ ¬ResetNext { handlerA with schedule := [.button true] } ∧
    State.HandlerPhase false { handlerA with isrPc := 37, owned := true, en := true, pend := false } :=
  ⟨⟨rfl, rfl, rfl, .inr ⟨rfl, rfl⟩, .inl ⟨.inl rfl, rfl, rfl⟩⟩, (by rintro ⟨l, r, h⟩; cases h),
    ⟨rfl, rfl, rfl, .inl rfl, .inr (.inr ⟨.inr rfl, rfl, rfl⟩)⟩⟩
theorem test_witness_TableIsTheExactRoundedSine : Config.reference.wf = true := by decide
/-- Also for the statements on ranges, sums and symmetry: entries of a well-formed configuration, mirrored indices and the
clipped cases. -/
theorem test_witness_PairSumsFollowTheDeadTime :
    tableEntry configA 1 = some (65435, 0) ∧ tableEntry configA ((configA.n - 1) % configA.n) = some (0, 65435) ∧
    tableEntry { configA with dead := 40000 } 0 = some (0, 0) := by decide +kernel
theorem test_witness_EntriesStayBelowFullScaleLessDeadTime : tableEntry configA 0 = some (32668, 32667) := by decide +kernel
theorem test_witness_TableIsSymmetricUpToTies :
    tableEntry configA 0 = some (32668, 32667) ∧ tableEntry configA ((configA.n - 0) % configA.n) = some (32668, 32667) := by
  decide +kernel
theorem test_witness_DeadTimeSaturatesEachChannelAtZero :
    tableEntry { configA with dead := 32767 } 0 = some (1, 0) := by decide +kernel
theorem test_witness_DumpToolPrintsTheTable : 1 ≤ Config.reference.toolN ∧ Config.reference.toolN ≤ 65535 ∧
    Config.reference.toolDead ≤ 65535 := by decide

/-! ### An infinite weakly fair run -/

/-- A FreeRun block with a table of one entry, in its second or later iteration. -/
def loopState (pc : Addr) (waiting : Bool) (rem passRem time : Nat) (log : List OutEntry) : State :=
  { State.initial { configA with variant := .freeRun, n := 1, fHz := 65535 } [] true true log [] [] [] with
    fgPc := pc, fgWaitActive := waiting, fgWaitRem := rem, passRem := passRem, time := time
    chA := 32668, chB := 32667, ind := true, last := true }

/-- The positions of one iteration: pc, wait in progress, what is left of it, pass counter. -/
def loopPositions : List (Addr × Bool × Nat × Nat) :=
  [(3, false, 0, 0), (4, false, 0, 0), (5, false, 0, 0), (6, false, 0, 1), (7, false, 0, 1), (8, false, 0, 1),
    (9, false, 0, 1), (10, false, 0, 1), (11, false, 0, 0), (12, false, 0, 0), (17, false, 0, 0), (17, true, 1, 0),
    (17, true, 0, 0), (18, false, 0, 0)] ++
  (List.range 16).map fun r => (9, true, r, 1)

/-- The move of a block that nothing outside drives. -/
def ownMove (s : State) : Move := if blockEnabled s then .block else .tick

/-- The run of such a block. -/
def ownRun (s : State) (k : Nat) : State := (fun u => (answer (step u)).getD u)^[k] s

/-- A state of the iteration. -/
def InLoop (s : State) : Prop := ∃ p t log, loopPositions.contains p = true ∧ s = loopState p.1 p.2.1 p.2.2.1 p.2.2.2 t log

/-- Scheduling the move that the block would make by itself makes the same step. -/
theorem step_ownMove {s : State} (h : s.schedule = []) : step { s with schedule := [ownMove s] } = step s := by
  have hs : { s with schedule := [] } = s := by rw [← h]
  simp only [step, scheduledStep, h, unscheduledStep, ownMove]
  split
  · split
    · split <;> simp only [moveStep, hs]
    · rfl
  · rfl

/-- The configuration of `loopState`. -/
theorem loop_wf : Config.wf { configA with variant := .freeRun, n := 1, fHz := 65535 } = true := by decide

/-- Its one table entry. -/
theorem loop_entry (pc waiting rem passRem t log) : tableEntry (loopState pc waiting rem passRem t log).cfg
    (loopState pc waiting rem passRem t log).idx = some (32668, 32667) :=
  (by decide +kernel : tableEntry { configA with variant := .freeRun, n := 1, fHz := 65535 } 0 = some (32668, 32667))

/-- Its wrapped index, and its sample interval. -/
theorem loop_wrap (pc waiting rem passRem t log) : ((loopState pc waiting rem passRem t log).idx + 1) %
    (loopState pc waiting rem passRem t log).cfg.n = 0 := (by decide : (0 + 1) % 1 = 0)
theorem loop_sample (pc waiting rem passRem t log) : (loopState pc waiting rem passRem t log).cfg.sampleUs = 15 :=
  (by decide : Config.sampleUs { configA with variant := .freeRun, n := 1, fHz := 65535 } = 15)

/-- A foreground step of `loopState`. -/
theorem loop_step {pc waiting rem passRem t log} {i : Instr}
    (hb : (waiting && decide (0 < rem)) = false) (hd : decode .fg (Memory.read [] pc.toNat) = .ok i) :
    step (loopState pc waiting rem passRem t log) = exec i (loopState pc waiting rem passRem t log) := by
  have he : fgEnabled (loopState pc waiting rem passRem t log) = true := by
    simp only [fgEnabled, entryEnabled, loopState, State.initial, hb]; rfl
  rw [step_of_block ⟨loop_wf, rfl⟩ rfl (by simp [blockEnabled, he])]
  have h1 : entryEnabled (loopState pc waiting rem passRem t log) = false := rfl
  have h2 : isrEnabled (loopState pc waiting rem passRem t log) = false := rfl
  have hf : decode .fg (fetchWord .fg (loopState pc waiting rem passRem t log)) = .ok i := hd
  simp only [blockStep, h1, h2, he, sequencerStep, hf, if_true, Bool.false_eq_true, if_false]

/-- A tick of `loopState`. -/
theorem loop_quiet {pc rem passRem t log u}
    (hb : decide (0 < rem) = true) (hu : tick (loopState pc true rem passRem t log) = u) :
    step (loopState pc true rem passRem t log) = .next u := by
  subst hu
  refine step_of_quiet ⟨loop_wf, rfl⟩ rfl ?_
  simp [blockEnabled, fgEnabled, isrEnabled, entryEnabled, loopState, State.initial, of_decide_eq_true hb]

theorem inLoop_step {s : State} (h : InLoop s) :
    s.schedule = [] ∧ s.cfg.timeMode = .ideal ∧ ∃ u, InLoop u ∧ step s = .next u := by
  obtain ⟨p, t, log, hp, rfl⟩ := h
  refine ⟨rfl, rfl, ?_⟩
  simp only [List.contains_iff_mem, loopPositions, List.range, List.range.loop, List.map_cons, List.map_nil,
    List.cons_append, List.nil_append, List.mem_cons, List.not_mem_nil, or_false] at hp
  rcases hp with rfl | rfl | rfl | rfl | rfl | rfl | rfl | rfl | rfl | rfl | rfl | rfl | rfl | rfl | rfl | rfl | rfl |
    rfl | rfl | rfl | rfl | rfl | rfl | rfl | rfl | rfl | rfl | rfl | rfl | rfl
  · exact ⟨_, ⟨(4, false, 0, 0), t, log, rfl, rfl⟩, (loop_step rfl (i := .poll 13) (by decide)).trans rfl⟩
  · exact ⟨_, ⟨(5, false, 0, 0), t, log ++ [.ind t true], rfl, rfl⟩, (loop_step rfl (i := .setind true) (by decide)).trans rfl⟩
  · exact ⟨_, ⟨(6, false, 0, 1), t, log, rfl, rfl⟩, (loop_step rfl (i := .passinit) (by decide)).trans rfl⟩
  · exact ⟨_, ⟨(7, false, 0, 1), t, log ++ [.chA t 32668], rfl, rfl⟩, (loop_step rfl (i := .wra) (by decide)).trans (by simp only [exec, execWra, loop_entry]; rfl)⟩
  · exact ⟨_, ⟨(8, false, 0, 1), t, log ++ [.chB t 32667], rfl, rfl⟩, (loop_step rfl (i := .wrb) (by decide)).trans (by simp only [exec, execWrb, loop_entry]; rfl)⟩
  · exact ⟨_, ⟨(9, false, 0, 1), t, log, rfl, rfl⟩, (loop_step rfl (i := .inc) (by decide)).trans (by simp only [exec, execInc, loop_wrap]; rfl)⟩
  · exact ⟨_, ⟨(9, true, 15, 1), t, log, rfl, rfl⟩,
      (loop_step rfl (i := .waits) (by decide)).trans (by simp only [exec, execWaits, loop_sample]; rfl)⟩
  · exact ⟨_, ⟨(11, false, 0, 0), t, log, rfl, rfl⟩, (loop_step rfl (i := .passnext 6) (by decide)).trans rfl⟩
  · exact ⟨_, ⟨(12, false, 0, 0), t, log, rfl, rfl⟩, (loop_step rfl (i := .diag true) (by decide)).trans rfl⟩
  · exact ⟨_, ⟨(17, false, 0, 0), t, log, rfl, rfl⟩, (loop_step rfl (i := .jmp 17) (by decide)).trans rfl⟩
  · exact ⟨_, ⟨(17, true, 1, 0), t, log, rfl, rfl⟩, (loop_step rfl (i := .gap) (by decide)).trans rfl⟩
  · exact ⟨_, ⟨(17, true, 0, 0), t + 1, log, rfl, rfl⟩, loop_quiet rfl rfl⟩
  · exact ⟨_, ⟨(18, false, 0, 0), t, log, rfl, rfl⟩, (loop_step rfl (i := .gap) (by decide)).trans rfl⟩
  · exact ⟨_, ⟨(3, false, 0, 0), t, log, rfl, rfl⟩, (loop_step rfl (i := .jmp 3) (by decide)).trans rfl⟩
  · exact ⟨_, ⟨(10, false, 0, 1), t, log, rfl, rfl⟩, (loop_step rfl (i := .waits) (by decide)).trans rfl⟩
  · exact ⟨_, ⟨(9, true, 0, 1), t + 1, log, rfl, rfl⟩, loop_quiet rfl rfl⟩
  · exact ⟨_, ⟨(9, true, 1, 1), t + 1, log, rfl, rfl⟩, loop_quiet rfl rfl⟩
  · exact ⟨_, ⟨(9, true, 2, 1), t + 1, log, rfl, rfl⟩, loop_quiet rfl rfl⟩
  · exact ⟨_, ⟨(9, true, 3, 1), t + 1, log, rfl, rfl⟩, loop_quiet rfl rfl⟩
  · exact ⟨_, ⟨(9, true, 4, 1), t + 1, log, rfl, rfl⟩, loop_quiet rfl rfl⟩
  · exact ⟨_, ⟨(9, true, 5, 1), t + 1, log, rfl, rfl⟩, loop_quiet rfl rfl⟩
  · exact ⟨_, ⟨(9, true, 6, 1), t + 1, log, rfl, rfl⟩, loop_quiet rfl rfl⟩
  · exact ⟨_, ⟨(9, true, 7, 1), t + 1, log, rfl, rfl⟩, loop_quiet rfl rfl⟩
  · exact ⟨_, ⟨(9, true, 8, 1), t + 1, log, rfl, rfl⟩, loop_quiet rfl rfl⟩
  · exact ⟨_, ⟨(9, true, 9, 1), t + 1, log, rfl, rfl⟩, loop_quiet rfl rfl⟩
  · exact ⟨_, ⟨(9, true, 10, 1), t + 1, log, rfl, rfl⟩, loop_quiet rfl rfl⟩
  · exact ⟨_, ⟨(9, true, 11, 1), t + 1, log, rfl, rfl⟩, loop_quiet rfl rfl⟩
  · exact ⟨_, ⟨(9, true, 12, 1), t + 1, log, rfl, rfl⟩, loop_quiet rfl rfl⟩
  · exact ⟨_, ⟨(9, true, 13, 1), t + 1, log, rfl, rfl⟩, loop_quiet rfl rfl⟩
  · exact ⟨_, ⟨(9, true, 14, 1), t + 1, log, rfl, rfl⟩, loop_quiet rfl rfl⟩

/-- The run stays in the loop, and each of its steps is the block's own. -/
theorem inLoop_ownRun {s : State} (h : InLoop s) (k : Nat) :
    InLoop (ownRun s k) ∧ step { ownRun s k with schedule := [ownMove (ownRun s k)] } = .next (ownRun s (k + 1)) := by
  have next : ∀ u, InLoop u → InLoop ((answer (step u)).getD u) ∧ step u = .next ((answer (step u)).getD u) := by
    intro u hu
    obtain ⟨-, -, v, hv, hstep⟩ := inLoop_step hu
    simpa [hstep, answer] using hv
  have all : InLoop (ownRun s k) := by
    induction k with
    | zero => exact h
    | succ k ih => unfold ownRun; rw [Function.iterate_succ_apply']; exact (next _ ih).1
  refine ⟨all, ?_⟩
  rw [step_ownMove (inLoop_step all).1, (next _ all).2]
  simp only [ownRun, Function.iterate_succ_apply']

theorem inLoop_infinite {s : State} (h : InLoop s) : InfiniteRun (ownRun s) fun k => ownMove (ownRun s k) where
  nothing_left k := (inLoop_step (inLoop_ownRun h k).1).1
  next k := (inLoop_ownRun h k).2

theorem inLoop_fair {s : State} (h : InLoop s) : WeaklyFair (ownRun s) fun k => ownMove (ownRun s k) := by
  intro o k
  refine ⟨k, Nat.le_refl k, ?_⟩
  have hi := (inLoop_step (inLoop_ownRun h k).1).2.1
  by_cases he : o.enabled (ownRun s k) = true
  · refine .inr ⟨he, ?_⟩
    cases o <;> simp_all [OwnStep.enabled, OwnStep.move, ownMove, blockEnabled, tickEnabled]
  · exact .inl (by simpa using he)

theorem test_witness_EveryPassIsEventuallyWritten :
    let s := loopState 3 false 0 0 0 []
    InfiniteRun (ownRun s) (fun k => ownMove (ownRun s k)) ∧ WeaklyFair (ownRun s) (fun k => ownMove (ownRun s k)) ∧
      (∀ k level, ownMove (ownRun s k) ≠ .reset level) ∧ s.StreamInv ∧ s.cfg.variant = .freeRun ∧ s.fatal = .noFatal ∧
      s.fgPc ≠ 0 ∧ 0 < s.cfg.n := by
  intro s
  have h : InLoop s := ⟨(3, false, 0, 0), 0, [], rfl, rfl⟩
  have canonical : s.CanonicalInv := by
    refine ⟨⟨?_, ?_, ?_, ?_, ?_, ?_, ?_, ?_, ?_, ?_, ?_, ?_⟩, ?_, ?_, ?_, ?_, ?_, ?_, ?_, ?_, ?_⟩ <;> decide
  refine ⟨inLoop_infinite h, inLoop_fair h, fun k level => ?_, ⟨canonical, ?_, ?_, ?_, ?_, ?_, ?_, ?_⟩, rfl, rfl, ?_, ?_⟩
  · unfold ownMove; split <;> simp
  · decide
  · decide
  · decide
  · exact fun _ _ => .inr ⟨0, by decide +kernel⟩
  · decide
  · exact fun h => absurd h (by decide)
  · decide
  · decide
  · decide

end Sys2Proof.Tests
end

section
/-! PROOFS. 00_scope.md: which configurations a machine exists for. -/

namespace Sys2Proof

/-- The bounds that `config_wf_cases` gives are all that `Config.wf` asks for. -/
theorem config_wf_iff (cfg : Config) : cfg.wf = true ↔
    (1 ≤ cfg.n ∧ cfg.n ≤ 65535) ∧ (1 ≤ cfg.fHz ∧ cfg.fHz ≤ 65535) ∧ (1 ≤ cfg.fs ∧ cfg.fs ≤ 65535) ∧
      cfg.dead ≤ 65535 ∧ cfg.fHz * cfg.n ≤ 1000000 ∧
      (1 ≤ cfg.gapUs ∧ cfg.gapUs < cfg.sampleUs ∧ cfg.gapUs < 2 ^ 32) ∧ cfg.debounceUs < 2 ^ 32 := by
  refine ⟨config_wf_cases, fun ⟨hn, hf, hfs, hdead, hrate, hgap, hdeb⟩ => ?_⟩
  have samples : cfg.wfSamples = true := decide_eq_true hn
  have frequency : cfg.wfFrequency = true := decide_eq_true hf
  have fullScale : cfg.wfFullScale = true := decide_eq_true hfs
  have deadTime : cfg.wfDeadTime = true := decide_eq_true hdead
  have sampleRate : cfg.wfSampleRate = true := decide_eq_true hrate
  have gap : cfg.wfGap = true := decide_eq_true hgap
  have debounce : cfg.wfDebounce = true := decide_eq_true hdeb
  simp only [Config.wf, samples, frequency, fullScale, deadTime, sampleRate, gap, debounce, Bool.and_self]

namespace Machine

/-- No machine exists for an ill-formed configuration: `step` looks at nothing else of the state (60_exceptions.md R211). -/
theorem step_of_illFormed {s : State} (h : s.cfg.wf = false) : step s = .refused .illFormedConfig := by
  simp [step, h]

/-- Settles O1: R11's bounds are `config_wf_iff` with SAMPLE_US written as its quotient, and the refusal is
`step_of_illFormed`. -/
theorem illFormedConfigurationsAreRefused : Obligations.IllFormedConfigurationsAreRefused := by
  unfold Obligations.IllFormedConfigurationsAreRefused
  refine ⟨fun cfg => ?_, fun s => step_of_illFormed⟩
  have gapBounds :
      (1 ≤ cfg.gapUs ∧ cfg.gapUs < cfg.sampleUs ∧ cfg.gapUs < 2 ^ 32) ∧ cfg.debounceUs < 2 ^ 32 ↔
        (1 ≤ cfg.gapUs ∧ cfg.gapUs < 1000000 / (cfg.fHz * cfg.n)) ∧ cfg.gapUs < 2 ^ 32 ∧
          cfg.debounceUs < 2 ^ 32 := by
    simp only [Config.sampleUs, and_assoc]
  rw [config_wf_iff, gapBounds]

end Machine

end Sys2Proof
end

section
/-! PROOFS. What one step does, said once: a constructor for each outcome of a micro-op and for each kind of step, and the
lemmas that read them off `exec` and `step`. The proofs about steps go by cases on these two relations. -/

namespace Sys2Proof

/-- The two tables of 30_encoding.md R84, contexts and operand forms, agree opcode by opcode. -/
theorem opContext_of_decodeOperands {op : BitVec 5} {a : BitVec 11} {i : Instr} (h : decodeOperands op a = .ok i) :
    opContext op = some i.context := by
  have byNumber : opContext op =
      if op.toNat = 0 ∨ 0x17 ≤ op.toNat then none else if op.toNat ≤ 0x10 then some .fg else some .isr := by
    simp only [opContext, BitVec.toNat_eq]
    rfl
  unfold decodeOperands at h
  split at h
  case h_23 => cases h
  -- form T
  case h_4 | h_11 | h_16 | h_18 =>
    obtain rfl := formT_ok h
    simp [Instr.context, *]
  -- form V
  case h_5 | h_12 =>
    obtain ⟨v, -, rfl⟩ := formV_ok h
    simp [Instr.context, *]
  -- form N
  all_goals
    obtain ⟨-, rfl⟩ := formN_ok h
    simp [Instr.context, *]

/-- A micro-op is decoded only by the sequencer its opcode belongs to (30_encoding.md R86). -/
theorem context_of_decode {ctx : Context} {w : Word} {i : Instr} (h : decode ctx w = .ok i) : i.context = ctx := by
  unfold decode at h
  split at h
  · cases h
  · rename_i c hc
    split at h
    · rename_i hctx
      rw [opContext_of_decodeOperands h] at hc
      exact (Option.some.inj hc).trans hctx
    · cases h

namespace Machine

theorem satsub_eq_sub (a b : Nat) : satsub a b = a - b := by
  unfold satsub
  split
  · rfl
  · omega

/-- What a micro-op does to a state: one constructor for each of its outcomes, with the condition of that outcome. -/
inductive MicroOpEffect (s : State) : Instr → State → Prop where
  | init_succeeds (ok : s.startupOk = true) :
      MicroOpEffect s .init { s with armed := s.cfg.isToggle || s.armed, fgPc := s.fgPc + 1 }
  | init_fails (ok : s.startupOk = false) : MicroOpEffect s .init { s with fatal := .startupFault }
  | put : MicroOpEffect s .put { s with slotFull := s.cfg.isToggle || s.slotFull, fgPc := s.fgPc + 1 }
  | unmask : MicroOpEffect s .unmask { s with irqEn := s.cfg.isToggle || s.irqEn, fgPc := s.fgPc + 1 }
  | poll_running {target : Addr} (en : s.en = true) : MicroOpEffect s (.poll target) { s with fgPc := s.fgPc + 1 }
  | poll_paused {target : Addr} (en : s.en = false) : MicroOpEffect s (.poll target) { s with fgPc := target }
  | setind {v : Bool} :
      MicroOpEffect s (.setind v) { s with ind := v, outLog := s.outLog ++ [.ind s.time v], fgPc := s.fgPc + 1 }
  | passinit : MicroOpEffect s .passinit { s with passRem := s.cfg.n, fgPc := s.fgPc + 1 }
  | wra {main comp : Duty} (entry : tableEntry s.cfg s.idx = some (main, comp)) :
      MicroOpEffect s .wra { s with chA := main, outLog := s.outLog ++ [.chA s.time main], fgPc := s.fgPc + 1 }
  | wrb {main comp : Duty} (entry : tableEntry s.cfg s.idx = some (main, comp)) :
      MicroOpEffect s .wrb { s with chB := comp, outLog := s.outLog ++ [.chB s.time comp], fgPc := s.fgPc + 1 }
  | inc : MicroOpEffect s .inc { s with idx := (s.idx + 1) % s.cfg.n, fgPc := s.fgPc + 1 }
  | waits_issue (idle : s.fgWaitActive = false) :
      MicroOpEffect s .waits { s with fgWaitActive := true, fgWaitRem := s.cfg.sampleUs }
  | waits_complete (active : s.fgWaitActive = true) (elapsed : s.fgWaitRem = 0) :
      MicroOpEffect s .waits { s with fgWaitActive := false, fgPc := s.fgPc + 1 }
  | passnext_again {target : Addr} (more : 2 ≤ s.passRem) :
      MicroOpEffect s (.passnext target) { s with passRem := s.passRem - 1, fgPc := target }
  | passnext_last {target : Addr} (last : s.passRem ≤ 1) :
      MicroOpEffect s (.passnext target) { s with passRem := 0, fgPc := s.fgPc + 1 }
  | diag_reports {v : Bool} (changed : s.last ≠ v) (verbose : s.cfg.verbose = .on) :
      MicroOpEffect s (.diag v) { s with last := v, diagLog := s.diagLog ++ [⟨s.time, v⟩], fgPc := s.fgPc + 1 }
  | diag_silent {v : Bool} (silent : s.last = v ∨ s.cfg.verbose ≠ .on) :
      MicroOpEffect s (.diag v) { s with last := v, fgPc := s.fgPc + 1 }
  | za : MicroOpEffect s .za { s with chA := 0, outLog := s.outLog ++ [.chA s.time 0], fgPc := s.fgPc + 1 }
  | zb : MicroOpEffect s .zb { s with chB := 0, outLog := s.outLog ++ [.chB s.time 0], fgPc := s.fgPc + 1 }
  | gap_issue (idle : s.fgWaitActive = false) :
      MicroOpEffect s .gap { s with fgWaitActive := true, fgWaitRem := s.cfg.gapUs }
  | gap_complete (active : s.fgWaitActive = true) (elapsed : s.fgWaitRem = 0) :
      MicroOpEffect s .gap { s with fgWaitActive := false, fgPc := s.fgPc + 1 }
  | jmp {target : Addr} : MicroOpEffect s (.jmp target) { s with fgPc := target }
  | take_owned (owned : s.owned = true) : MicroOpEffect s .take { s with isrPc := s.isrPc + 1 }
  | take_slot (owned : s.owned = false) (slot : s.slotFull = true) :
      MicroOpEffect s .take { s with slotFull := false, owned := true, isrPc := s.isrPc + 1 }
  | take_empty (owned : s.owned = false) (slot : s.slotFull = false) :
      MicroOpEffect s .take { s with fatal := .handoffEmpty }
  | test_pending {target : Addr} (pend : s.pend = true) : MicroOpEffect s (.test target) { s with isrPc := s.isrPc + 1 }
  | test_clear {target : Addr} (pend : s.pend = false) : MicroOpEffect s (.test target) { s with isrPc := target }
  | toggle : MicroOpEffect s .toggle { s with en := !s.en, isrPc := s.isrPc + 1 }
  | clear : MicroOpEffect s .clear { s with pend := false, isrPc := s.isrPc + 1 }
  | debounce_issue (idle : s.debActive = false) :
      MicroOpEffect s .debounce { s with debActive := true, debRem := s.cfg.debounceUs }
  | debounce_complete (active : s.debActive = true) (elapsed : s.debRem = 0) :
      MicroOpEffect s .debounce { s with debActive := false, isrPc := s.isrPc + 1 }
  | reti : MicroOpEffect s .reti { s with inIsr := false }

/-- A micro-op that answers a next state has one of the effects above. -/
theorem microOpEffect_of_exec {i : Instr} {s t : State} (h : exec i s = .next t) : MicroOpEffect s i t := by
  cases i with
  | init =>
    obtain rfl := next_inj h
    split
    · exact .init_succeeds ‹_›
    · exact .init_fails (Bool.eq_false_of_not_eq_true ‹_›)
  | put => obtain rfl := next_inj h; exact .put
  | unmask => obtain rfl := next_inj h; exact .unmask
  | poll target =>
    obtain rfl := next_inj h
    split
    · exact .poll_running ‹_›
    · exact .poll_paused (Bool.eq_false_of_not_eq_true ‹_›)
  | setind v => obtain rfl := next_inj h; exact .setind
  | passinit => obtain rfl := next_inj h; exact .passinit
  | wra =>
    simp only [exec, execWra] at h
    split at h
    · obtain rfl := next_inj h; exact .wra ‹_›
    · cases h
  | wrb =>
    simp only [exec, execWrb] at h
    split at h
    · obtain rfl := next_inj h; exact .wrb ‹_›
    · cases h
  | inc => obtain rfl := next_inj h; exact .inc
  | waits =>
    obtain ⟨idle, rfl⟩ | ⟨active, elapsed, rfl⟩ := waitForeground_cases h
    · exact .waits_issue idle
    · exact .waits_complete active elapsed
  | passnext target =>
    simp only [exec, execPassnext, satsub_eq_sub] at h
    obtain rfl := next_inj h
    split
    · rename_i hr
      rw [hr]
      exact .passnext_last (by omega)
    · exact .passnext_again (by omega)
  | diag v =>
    obtain rfl := next_inj h
    split
    · rename_i reports
      exact .diag_reports reports.1 reports.2
    · rename_i silent
      exact .diag_silent (by tauto)
  | za => obtain rfl := next_inj h; exact .za
  | zb => obtain rfl := next_inj h; exact .zb
  | gap =>
    obtain ⟨idle, rfl⟩ | ⟨active, elapsed, rfl⟩ := waitForeground_cases h
    · exact .gap_issue idle
    · exact .gap_complete active elapsed
  | jmp target => obtain rfl := next_inj h; exact .jmp
  | take =>
    obtain rfl := next_inj h
    split
    · exact .take_owned ‹_›
    · split
      · exact .take_slot (Bool.eq_false_of_not_eq_true ‹_›) ‹_›
      · exact .take_empty (Bool.eq_false_of_not_eq_true ‹_›) (Bool.eq_false_of_not_eq_true ‹_›)
  | test target =>
    obtain rfl := next_inj h
    split
    · exact .test_pending ‹_›
    · exact .test_clear (Bool.eq_false_of_not_eq_true ‹_›)
  | toggle => obtain rfl := next_inj h; exact .toggle
  | clear => obtain rfl := next_inj h; exact .clear
  | debounce =>
    obtain ⟨idle, rfl⟩ | ⟨active, elapsed, rfl⟩ := waitHandler_cases h
    · exact .debounce_issue idle
    · exact .debounce_complete active elapsed
  | reti => obtain rfl := next_inj h; exact .reti

/-- No micro-op touches the parameters, T, BTN or what ENV, HOST and the scheduler hold. -/
theorem MicroOpEffect.frame {s t : State} {i : Instr} (e : MicroOpEffect s i t) :
    t.cfg = s.cfg ∧ t.rom = s.rom ∧ t.time = s.time ∧ t.btn = s.btn ∧ t.schedule = s.schedule ∧
      t.startupOk = s.startupOk ∧ t.hostLog = s.hostLog := by
  cases e <;> exact ⟨rfl, rfl, rfl, rfl, rfl, rfl, rfl⟩

/-- What a step other than reset does to the state `s` that has taken its move off the schedule. -/
inductive StepEffect (s : State) : State → Prop where
  | entry (enabled : entryEnabled s = true) : StepEffect s (enterInterrupt s)
  | microOp {i : Instr} {t : State} (enabled : contextEnabled i.context s = true)
      (fetched : decode i.context (fetchWord i.context s) = .ok i) (effect : MicroOpEffect s i t) : StepEffect s t
  | illegal {ctx : Context} {e : Illegal} (enabled : contextEnabled ctx s = true)
      (fetched : decode ctx (fetchWord ctx s) = .error e) : StepEffect s (raiseFatal .illegalMicroOp s)
  | tick (enabled : tickEnabled s = true) : StepEffect s (tick s)
  | button (level : Bool) : StepEffect s (setButton level s)
  | startup (ok : Bool) : StepEffect s { s with startupOk := ok }
  | hostRead (addr width : Nat) : StepEffect s (hostRead addr width s)
  | hostWrite (addr width data : Nat) : StepEffect s (hostWrite addr width data s)

theorem stepEffect_of_blockStep {s t : State} (h : blockStep s = .next t) : StepEffect s t := by
  obtain ⟨enabled, rfl⟩ | ⟨ctx, i, enabled, fetched, run⟩ | ⟨ctx, e, enabled, fetched, rfl⟩ := blockStep_cases h
  · exact .entry enabled
  · obtain rfl := context_of_decode fetched
    exact .microOp enabled fetched (microOpEffect_of_exec run)
  · exact .illegal enabled fetched

/-- A step is a reset or has one of the effects above; `rest` is the schedule it leaves. -/
theorem stepEffect_of_step {s t : State} (h : step s = .next t) :
    ∃ rest, (∃ level, s.schedule = .reset level :: rest ∧ t = applyReset level { s with schedule := rest }) ∨
      StepEffect { s with schedule := rest } t := by
  obtain ⟨-, rest, -, hblock | ⟨enabled, rfl⟩ | ⟨level, -, rfl⟩ | ⟨ok, -, rfl⟩ | hreset | ⟨addr, width, -, rfl⟩ |
    ⟨addr, width, data, -, rfl⟩⟩ := step_cases h
  · exact ⟨rest, .inr (stepEffect_of_blockStep hblock)⟩
  · exact ⟨rest, .inr (.tick enabled)⟩
  · exact ⟨rest, .inr (.button level)⟩
  · exact ⟨rest, .inr (.startup ok)⟩
  · exact ⟨rest, .inl hreset⟩
  · exact ⟨rest, .inr (.hostRead addr width)⟩
  · exact ⟨rest, .inr (.hostWrite addr width data)⟩

/-- Where ENV does not assert reset, a step has one of the effects above. -/
theorem stepEffect_of_not_reset {s t : State} (h : step s = .next t) (hr : ¬ResetNext s) :
    ∃ rest, StepEffect { s with schedule := rest } t := by
  obtain ⟨rest, ⟨level, hs, -⟩ | effect⟩ := stepEffect_of_step h
  · exact absurd ⟨level, rest, hs⟩ hr
  · exact ⟨rest, effect⟩

end Machine

end Sys2Proof
end

section
/-! PROOFS. 10_state.md R23 to R39, 42_control.md R161: the state invariant at power-up and over every step. -/

namespace Sys2Proof.Machine

/-- A foreground wait in progress is at its own micro-op, so no other foreground micro-op runs during it. -/
theorem State.Inv.no_fgWait {s : State} {i : Instr} (h : s.Inv) (fetched : decode .fg (fetchWord .fg s) = .ok i)
    (hwaits : i ≠ .waits) (hgap : i ≠ .gap) : ¬s.fgWaitActive = true := by
  intro active
  rcases h.fg_wait_place active with place | place
  · exact hwaits (Except.ok.inj (fetched.symm.trans place))
  · exact hgap (Except.ok.inj (fetched.symm.trans place))

/-- Likewise no other handler micro-op runs during a debounce wait. -/
theorem State.Inv.no_debWait {s : State} {i : Instr} (h : s.Inv)
    (fetched : decode .isr (fetchWord .isr s) = .ok i) (hdeb : i ≠ .debounce) : ¬s.debActive = true := fun active =>
  hdeb (Except.ok.inj (fetched.symm.trans (h.deb_place active).2))

/-- FreeRun is never in the handler. -/
theorem State.Inv.toggle_of_inIsr {s : State} (h : s.Inv) (hi : s.inIsr = true) : s.cfg.variant ≠ .freeRun := by
  intro free
  obtain ⟨-, -, -, -, outside, -⟩ := h.free_run free
  exact absurd hi (ne_true_of_eq_false outside)

theorem isToggle_of_freeRun {cfg : Config} (free : cfg.variant = .freeRun) : cfg.isToggle = false := by
  simp [Config.isToggle, free]

/-! ## The steps that are no micro-op -/

theorem initial_inv {cfg : Config} {rom : Memory} (hcfg : cfg.wf = true) (hrom : Memory.wf rom)
    (hpass : letsTimePass rom = true) (btn ok : Bool) (out : List OutEntry) (dia : List DiagEntry)
    (host : List HostEntry) (sched : List Move) : (State.initial cfg rom btn ok out dia host sched).Inv := by
  obtain ⟨⟨samples, -⟩, -⟩ := config_wf_cases hcfg
  exact {
    cfg_wf := hcfg
    rom_wf := hrom
    lets_time_pass := hpass
    idx_lt := samples
    pass_le := Nat.zero_le _
    fg_wait_idle := fun _ => rfl
    fg_wait_bound := Nat.two_pow_pos 32
    fg_wait_place := nofun
    deb_idle := fun _ => rfl
    deb_bound := Nat.two_pow_pos 32
    deb_place := nofun
    free_run := fun free => ⟨decide_eq_true free, rfl, rfl, rfl, rfl, rfl, rfl⟩ }

theorem enterInterrupt_keeps_inv {s : State} (h : s.Inv) (enabled : entryEnabled s = true) : (enterInterrupt s).Inv := by
  obtain ⟨-, pend, -, outside⟩ := entryEnabled_iff.mp enabled
  have noWait : ¬s.debActive = true := fun active => absurd (h.deb_place active).1 (ne_true_of_eq_false outside)
  have toggle : s.cfg.variant ≠ .freeRun := fun free => by
    obtain ⟨-, -, -, noEdge, -⟩ := h.free_run free
    exact absurd pend (ne_true_of_eq_false noEdge)
  exact { h with
    deb_place := (absurd · noWait)
    free_run := (absurd · toggle) }

/-- A tick lowers a wait by at most 1 and raises none. -/
theorem tick_fgWaitRem_bounds (s : State) :
    (tick s).fgWaitRem ≤ s.fgWaitRem ∧ s.fgWaitRem ≤ (tick s).fgWaitRem + 1 := by
  rw [tick_fgWaitRem]
  split <;> omega

theorem tick_debRem_bounds (s : State) : (tick s).debRem ≤ s.debRem ∧ s.debRem ≤ (tick s).debRem + 1 := by
  rw [tick_debRem]
  split <;> omega

theorem tick_keeps_inv {s : State} (h : s.Inv) : (tick s).Inv :=
  { h with
    fg_wait_idle := fun idle => Nat.le_zero.mp (h.fg_wait_idle idle ▸ (tick_fgWaitRem_bounds s).1)
    fg_wait_bound := (tick_fgWaitRem_bounds s).1.trans_lt h.fg_wait_bound
    deb_idle := fun idle => Nat.le_zero.mp (h.deb_idle idle ▸ (tick_debRem_bounds s).1)
    deb_bound := (tick_debRem_bounds s).1.trans_lt h.deb_bound }

/-- FreeRun is not armed, so the button latches nothing there. -/
theorem setButton_keeps_inv {s : State} (h : s.Inv) (level : Bool) : (setButton level s).Inv :=
  { h with
    free_run := fun free => by
      obtain ⟨en, disarmed, masked, noEdge, outside, slot, owned⟩ := h.free_run free
      have noLatch : edgeLatches level s = false := by simp [edgeLatches, disarmed]
      exact ⟨en, disarmed, masked, by simp [noLatch, noEdge], outside, slot, owned⟩ }

/-! ## The micro-ops -/

/-- A foreground micro-op keeps the invariant: the three boot micro-ops act in Toggle only, the waits are issued with a
length of the configuration and end at 0, and the others leave the invariant's fields or keep their bounds. -/
theorem fg_microOp_keeps_inv {s t : State} {i : Instr} (h : s.Inv) (hctx : i.context = .fg)
    (fetched : decode .fg (fetchWord .fg s) = .ok i) (effect : MicroOpEffect s i t) : t.Inv := by
  obtain ⟨⟨samples, -⟩, -, -, -, -, ⟨-, -, gap⟩, -⟩ := config_wf_cases h.cfg_wf
  have noWait := h.no_fgWait fetched
  cases effect with
  | init_fails => exact { h with }
  | init_succeeds | put | unmask =>
    exact { h with
      fg_wait_place := (absurd · (noWait nofun nofun))
      free_run := fun free => by simpa [isToggle_of_freeRun free] using h.free_run free }
  | poll_running | poll_paused | jmp | wra | wrb | za | zb | setind | diag_reports | diag_silent =>
    exact { h with fg_wait_place := (absurd · (noWait nofun nofun)) }
  | passinit => exact { h with pass_le := Nat.le_refl _, fg_wait_place := (absurd · (noWait nofun nofun)) }
  | passnext_again =>
    exact { h with
      pass_le := (Nat.sub_le _ _).trans h.pass_le
      fg_wait_place := (absurd · (noWait nofun nofun)) }
  | passnext_last => exact { h with pass_le := Nat.zero_le _, fg_wait_place := (absurd · (noWait nofun nofun)) }
  | inc => exact { h with idx_lt := Nat.mod_lt _ samples, fg_wait_place := (absurd · (noWait nofun nofun)) }
  | waits_issue =>
    exact { h with
      fg_wait_idle := nofun
      fg_wait_bound := sampleUs_lt s.cfg
      fg_wait_place := fun _ => .inl fetched }
  | gap_issue =>
    exact { h with
      fg_wait_idle := nofun
      fg_wait_bound := gap
      fg_wait_place := fun _ => .inr fetched }
  | waits_complete _ elapsed | gap_complete _ elapsed =>
    exact { h with
      fg_wait_idle := fun _ => elapsed
      fg_wait_place := nofun }
  | take_owned | take_slot | take_empty | test_pending | test_clear | toggle | clear | debounce_issue
  | debounce_complete | reti => cases hctx

/-- A handler micro-op keeps the invariant: the block is in Toggle, DEBOUNCE is issued with the configured length and ends
at 0, and during its wait no other micro-op, RETI among them, runs. -/
theorem isr_microOp_keeps_inv {s t : State} {i : Instr} (h : s.Inv) (hctx : i.context = .isr) (inside : s.inIsr = true)
    (fetched : decode .isr (fetchWord .isr s) = .ok i) (effect : MicroOpEffect s i t) : t.Inv := by
  obtain ⟨-, -, -, -, -, -, debounce⟩ := config_wf_cases h.cfg_wf
  have toggle := h.toggle_of_inIsr inside
  have noWait := h.no_debWait fetched
  cases effect with
  | take_empty => exact { h with }
  | take_owned | test_pending | test_clear => exact { h with deb_place := (absurd · (noWait nofun)) }
  | take_slot | toggle | clear | reti =>
    exact { h with
      deb_place := (absurd · (noWait nofun))
      free_run := (absurd · toggle) }
  | debounce_issue =>
    exact { h with
      deb_idle := nofun
      deb_bound := debounce
      deb_place := fun _ => ⟨inside, fetched⟩ }
  | debounce_complete _ elapsed =>
    exact { h with
      deb_idle := fun _ => elapsed
      deb_place := nofun }
  | init_succeeds | init_fails | put | unmask | poll_running | poll_paused | setind | passinit | wra | wrb | inc
  | waits_issue | waits_complete | passnext_again | passnext_last | diag_reports | diag_silent | za | zb | gap_issue
  | gap_complete | jmp => cases hctx

theorem microOp_keeps_inv {s t : State} {i : Instr} (h : s.Inv) (enabled : contextEnabled i.context s = true)
    (fetched : decode i.context (fetchWord i.context s) = .ok i) (effect : MicroOpEffect s i t) : t.Inv := by
  cases hctx : i.context with
  | fg =>
    rw [hctx] at fetched
    exact fg_microOp_keeps_inv h hctx fetched effect
  | isr =>
    rw [hctx] at fetched enabled
    obtain ⟨-, inside, -⟩ := isrEnabled_iff.mp enabled
    exact isr_microOp_keeps_inv h hctx inside fetched effect

/-! ## Every step -/

theorem stepEffect_keeps_inv {s t : State} (h : s.Inv) (effect : StepEffect s t) : t.Inv := by
  cases effect with
  | entry enabled => exact enterInterrupt_keeps_inv h enabled
  | microOp enabled fetched effect => exact microOp_keeps_inv h enabled fetched effect
  | tick => exact tick_keeps_inv h
  | button level => exact setButton_keeps_inv h level
  | illegal | startup | hostRead | hostWrite => exact { h with }

/-- Settles O40: a reset gives a power-up state of the same configuration and ROM, and every other step is
`stepEffect_keeps_inv`; the invariant does not mention the schedule. -/
theorem stepKeepsTheStateInvariant : Obligations.StepKeepsTheStateInvariant := by
  unfold Obligations.StepKeepsTheStateInvariant
  intro s t h hstep
  obtain ⟨rest, ⟨level, -, rfl⟩ | effect⟩ := stepEffect_of_step hstep
  · exact initial_inv h.cfg_wf h.rom_wf h.lets_time_pass ..
  · exact stepEffect_keeps_inv (s := { s with schedule := rest }) { h with } effect

end Sys2Proof.Machine
end

section
/-! PROOFS. 10_state.md R27 to R46: which steps write which field. -/

namespace Sys2Proof.Machine

/-! ## EN -/

theorem MicroOpEffect.toggle_of_en_ne {s t : State} {i : Instr} (e : MicroOpEffect s i t) (hne : t.en ≠ s.en) :
    i = .toggle ∧ t.en = !s.en := by
  cases e with
  | toggle => exact ⟨rfl, rfl⟩
  | _ => exact absurd rfl hne

theorem StepEffect.toggle_of_en_ne {s t : State} (e : StepEffect s t) (hne : t.en ≠ s.en) :
    isrEnabled s = true ∧ decode .isr (fetchWord .isr s) = .ok .toggle ∧ t.en = !s.en := by
  cases e with
  | microOp enabled fetched effect =>
    obtain ⟨rfl, inverted⟩ := effect.toggle_of_en_ne hne
    exact ⟨enabled, fetched, inverted⟩
  | _ => exact absurd rfl hne

/-- Settles O31: by cases on the step, and for a micro-op on its effect. -/
theorem enableFlagHasOneWriter : Obligations.EnableFlagHasOneWriter := by
  unfold Obligations.EnableFlagHasOneWriter
  intro s t hstep hreset hne
  obtain ⟨rest, effect⟩ := stepEffect_of_not_reset hstep hreset
  exact effect.toggle_of_en_ne hne

/-! ## CHA, CHB and IND -/

theorem MicroOpEffect.wra_or_za_of_chA_ne {s t : State} {i : Instr} (e : MicroOpEffect s i t) (hne : t.chA ≠ s.chA) :
    i = .wra ∨ i = .za := by
  cases e with
  | wra => exact .inl rfl
  | za => exact .inr rfl
  | _ => exact absurd rfl hne

theorem MicroOpEffect.wrb_or_zb_of_chB_ne {s t : State} {i : Instr} (e : MicroOpEffect s i t) (hne : t.chB ≠ s.chB) :
    i = .wrb ∨ i = .zb := by
  cases e with
  | wrb => exact .inl rfl
  | zb => exact .inr rfl
  | _ => exact absurd rfl hne

theorem MicroOpEffect.setind_of_ind_ne {s t : State} {i : Instr} (e : MicroOpEffect s i t) (hne : t.ind ≠ s.ind) :
    ∃ v, i = .setind v := by
  cases e with
  | setind => exact ⟨_, rfl⟩
  | _ => exact absurd rfl hne

/-- A step that changes CHA, CHB or IND is a micro-op of the sequencer that fetched it. -/
theorem StepEffect.microOp_of_output_ne {s t : State} (e : StepEffect s t)
    (hne : t.chA ≠ s.chA ∨ t.chB ≠ s.chB ∨ t.ind ≠ s.ind) :
    ∃ i, contextEnabled i.context s = true ∧ decode i.context (fetchWord i.context s) = .ok i ∧
      MicroOpEffect s i t := by
  cases e with
  | microOp enabled fetched effect => exact ⟨_, enabled, fetched, effect⟩
  | _ => exact absurd hne (by simp)

/-- Settles O32: only a micro-op changes an output, and its effect says which one it is. -/
theorem outputsChangeOnlyByTheirMicroOps : Obligations.OutputsChangeOnlyByTheirMicroOps := by
  unfold Obligations.OutputsChangeOnlyByTheirMicroOps
  intro s t hstep hreset
  obtain ⟨rest, stepEffect⟩ := stepEffect_of_not_reset hstep hreset
  refine ⟨fun hne => ?_, fun hne => ?_, fun hne => ?_⟩
  · obtain ⟨i, enabled, fetched, effect⟩ := stepEffect.microOp_of_output_ne (.inl hne)
    obtain rfl | rfl := effect.wra_or_za_of_chA_ne hne
    · exact ⟨enabled, .inl fetched⟩
    · exact ⟨enabled, .inr fetched⟩
  · obtain ⟨i, enabled, fetched, effect⟩ := stepEffect.microOp_of_output_ne (.inr (.inl hne))
    obtain rfl | rfl := effect.wrb_or_zb_of_chB_ne hne
    · exact ⟨enabled, .inl fetched⟩
    · exact ⟨enabled, .inr fetched⟩
  · obtain ⟨i, enabled, fetched, effect⟩ := stepEffect.microOp_of_output_ne (.inr (.inr hne))
    obtain ⟨v, rfl⟩ := effect.setind_of_ind_ne hne
    exact ⟨enabled, v, fetched⟩

/-! ## The logs -/

/-- A list with at most one entry appended. -/
def GrowsByAtMostOne {α : Type} (old new : List α) : Prop := new = old ∨ ∃ e, new = old ++ [e]

theorem GrowsByAtMostOne.isPrefix_and_length_le {α : Type} {old new : List α} (h : GrowsByAtMostOne old new) :
    old <+: new ∧ new.length ≤ old.length + 1 := by
  obtain rfl | ⟨e, rfl⟩ := h
  · exact ⟨⟨[], List.append_nil _⟩, Nat.le_succ _⟩
  · exact ⟨⟨[e], rfl⟩, by simp⟩

theorem MicroOpEffect.outLog_grows {s t : State} {i : Instr} (e : MicroOpEffect s i t) :
    GrowsByAtMostOne s.outLog t.outLog := by
  cases e with
  | setind | wra | wrb | za | zb => exact .inr ⟨_, rfl⟩
  | _ => exact .inl rfl

theorem MicroOpEffect.diagLog_grows {s t : State} {i : Instr} (e : MicroOpEffect s i t) :
    GrowsByAtMostOne s.diagLog t.diagLog := by
  cases e with
  | diag_reports => exact .inr ⟨_, rfl⟩
  | _ => exact .inl rfl

theorem StepEffect.logs_grow {s t : State} (e : StepEffect s t) :
    GrowsByAtMostOne s.outLog t.outLog ∧ GrowsByAtMostOne s.diagLog t.diagLog := by
  cases e with
  | microOp _ _ effect => exact ⟨effect.outLog_grows, effect.diagLog_grows⟩
  | _ => exact ⟨.inl rfl, .inl rfl⟩

/-- Settles O35: reset appends its marker to OUT_LOG, and every other step is `StepEffect.logs_grow`. -/
theorem logsOnlyGrow : Obligations.LogsOnlyGrow := by
  unfold Obligations.LogsOnlyGrow
  intro s t hstep
  have grows : GrowsByAtMostOne s.outLog t.outLog ∧ GrowsByAtMostOne s.diagLog t.diagLog := by
    obtain ⟨rest, ⟨level, -, rfl⟩ | effect⟩ := stepEffect_of_step hstep
    · exact ⟨.inr ⟨_, rfl⟩, .inl rfl⟩
    · exact effect.logs_grow
  obtain ⟨out, outLength⟩ := grows.1.isPrefix_and_length_le
  obtain ⟨diag, diagLength⟩ := grows.2.isPrefix_and_length_le
  exact ⟨out, outLength, diag, diagLength⟩

/-! ## T -/

theorem StepEffect.tick_of_time_ne {s t : State} (e : StepEffect s t) (hne : t.time ≠ s.time) : t = Machine.tick s := by
  cases e with
  | tick => rfl
  | microOp _ _ effect =>
    obtain ⟨-, -, sameTime, -⟩ := effect.frame
    exact absurd sameTime hne
  | _ => exact absurd rfl hne

/-- Settles O36: a step that changes T is a tick, which lowers each wait by at most 1. -/
theorem onlyATickMovesTime : Obligations.OnlyATickMovesTime := by
  unfold Obligations.OnlyATickMovesTime
  intro s t hstep hreset hne
  obtain ⟨rest, effect⟩ := stepEffect_of_not_reset hstep hreset
  obtain rfl := effect.tick_of_time_ne hne
  exact ⟨rfl, (tick_fgWaitRem_bounds _).2, (tick_debRem_bounds _).2⟩

/-! ## FATAL -/

theorem entryEnabled_of_fatal {s : State} (hf : s.fatal ≠ .noFatal) : entryEnabled s = false :=
  Bool.eq_false_of_not_eq_true fun enabled => hf (entryEnabled_iff.mp enabled).1

theorem contextEnabled_of_fatal {s : State} (hf : s.fatal ≠ .noFatal) (ctx : Context) : contextEnabled ctx s = false := by
  refine Bool.eq_false_of_not_eq_true fun enabled => hf ?_
  cases ctx with
  | fg => exact (fgEnabled_iff.mp enabled).1
  | isr => exact (isrEnabled_iff.mp enabled).1

/-- With FATAL nonzero a tick counts T alone. -/
theorem tick_of_fatal {s : State} (hf : s.fatal ≠ .noFatal) : tick s = { s with time := s.time + 1 } := by
  simp [tick, fgWaitCounts, debWaitCounts, hf]

/-- With FATAL nonzero the button latches nothing. -/
theorem setButton_of_fatal {s : State} (hf : s.fatal ≠ .noFatal) (level : Bool) :
    setButton level s = { s with btn := level } := by
  simp [setButton, edgeLatches, hf]

/-- With FATAL nonzero a step that is no reset is a tick or a move of ENV or HOST. -/
theorem StepEffect.fatal_frame {s t : State} (e : StepEffect s t) (hf : s.fatal ≠ .noFatal) :
    t = { s with time := t.time, btn := t.btn, startupOk := t.startupOk, hostLog := t.hostLog } ∧
      (t.time = s.time ∨ t.time = s.time + 1) := by
  cases e with
  | entry enabled => exact absurd enabled (by simp [entryEnabled_of_fatal hf])
  | microOp enabled | illegal enabled => exact absurd enabled (by simp [contextEnabled_of_fatal hf])
  | tick => rw [tick_of_fatal hf]; exact ⟨rfl, .inr rfl⟩
  | button level => rw [setButton_of_fatal hf]; exact ⟨rfl, .inl rfl⟩
  | startup | hostRead | hostWrite => exact ⟨rfl, .inl rfl⟩

/-- Settles O14: no entry and no sequencer is enabled, and what is left of the steps is `StepEffect.fatal_frame`. -/
theorem fatalStateHoldsUntilReset : Obligations.FatalStateHoldsUntilReset := by
  unfold Obligations.FatalStateHoldsUntilReset
  refine ⟨⟨rfl, rfl, rfl, rfl⟩, fun s hf => ?_, fun s t hf hreset hstep => ?_⟩
  · exact ⟨entryEnabled_of_fatal hf, contextEnabled_of_fatal hf .isr, contextEnabled_of_fatal hf .fg⟩
  · obtain ⟨rest, effect⟩ := stepEffect_of_not_reset hstep hreset
    obtain ⟨frame, time⟩ := effect.fatal_frame hf
    have schedule : t.schedule = rest := congrArg (·.schedule) frame
    exact ⟨by rw [schedule]; exact frame, time⟩

end Sys2Proof.Machine
end

section
/-! PROOFS. 10_state.md R48 to R58: the observation registers. -/

namespace Sys2Proof.Machine

/-- An aligned word read below 0x40000 answers its register (20_memory.md R65). -/
theorem memRead_register (s : State) {k : Nat} (hk : k < 0x10000) : memRead s (4 * k) 4 = .data (registerWord s k) := by
  have legal : readLegal (4 * k) 4 = true := decide_eq_true ⟨rfl, Nat.mul_mod_right 4 k, by omega⟩
  have window : 4 * k < 0x40000 := by omega
  simp [memRead, legal, busWord, window]

/-! ## Fields of a word that is put together from parts

The offsets are written as `k + w`, so that a part is peeled off by matching its width. -/

theorem getLsbD_append_above {v w : Nat} (hi : BitVec v) (lo : BitVec w) (k : Nat) :
    (hi ++ lo).getLsbD (k + w) = hi.getLsbD k := by
  rw [BitVec.getLsbD_append, if_neg (by omega), Nat.add_sub_cancel]

theorem getLsbD_append_ofBool_zero {v : Nat} (hi : BitVec v) (b : Bool) : (hi ++ BitVec.ofBool b).getLsbD 0 = b := by
  rw [BitVec.getLsbD_append, if_pos Nat.one_pos, BitVec.getLsbD_ofBool, decide_eq_true rfl, Bool.true_and]

theorem extractLsb'_append_above {v w : Nat} (hi : BitVec v) (lo : BitVec w) (k len : Nat) :
    (hi ++ lo).extractLsb' (k + w) len = hi.extractLsb' k len := by
  rw [BitVec.extractLsb'_append_eq_of_le (Nat.le_add_left w k), Nat.add_sub_cancel]

theorem extractLsb'_append_low {v w : Nat} (hi : BitVec v) (lo : BitVec w) : (hi ++ lo).extractLsb' 0 w = lo := by
  rw [BitVec.extractLsb'_append_eq_of_add_le (Nat.le_of_eq (Nat.zero_add w)), BitVec.extractLsb'_eq_self]

/-- The upper half of a bus word. -/
theorem extractLsb'_append_high (hi lo : BitVec 16) : (hi ++ lo).extractLsb' 16 16 = hi :=
  (extractLsb'_append_above hi lo 0 16).trans hi.extractLsb'_eq_self

/-- The halves of a packed word are the numbers packed, where these fit. -/
theorem pack16_halves {hi lo : Nat} (hhi : hi ≤ 65535) (hlo : lo ≤ 65535) :
    ((pack16 hi lo).extractLsb' 0 16).toNat = lo ∧ ((pack16 hi lo).extractLsb' 16 16).toNat = hi := by
  unfold pack16
  rw [extractLsb'_append_low, extractLsb'_append_high, BitVec.toNat_ofNat, BitVec.toNat_ofNat]
  exact ⟨Nat.mod_eq_of_lt (Nat.lt_succ_of_le hlo), Nat.mod_eq_of_lt (Nat.lt_succ_of_le hhi)⟩

/-- PCS has FG_PC in bits 10:0, ISR_PC in bits 26:16, and 0 in the rest (10_state.md R52). -/
theorem pcsWord_fields (s : State) :
    (pcsWord s).extractLsb' 0 11 = s.fgPc ∧ (pcsWord s).extractLsb' 11 5 = 0 ∧
      (pcsWord s).extractLsb' 16 11 = s.isrPc ∧ (pcsWord s).extractLsb' 27 5 = 0 := by
  simp only [pcsWord, extractLsb'_append_above (w := 11), extractLsb'_append_above (w := 5),
    extractLsb'_append_low (w := 11), extractLsb'_append_low (w := 5), BitVec.extractLsb'_eq_self, and_self]

/-! ## The registers -/

/-- Settles O17: each register's word by `memRead_register`, and each number by the bound of the state invariant or of the
configuration that makes it fit its field. -/
theorem observationRegistersShowTheState : Obligations.ObservationRegistersShowTheState := by
  unfold Obligations.ObservationRegistersShowTheState
  intro s h
  obtain ⟨⟨-, samples⟩, ⟨-, frequency⟩, ⟨-, fullScale⟩, dead, -, ⟨-, -, gap⟩, debounce⟩ := config_wf_cases h.cfg_wf
  obtain ⟨idx, passRem⟩ := pack16_halves (h.pass_le.trans samples) (h.idx_lt.le.trans samples)
  obtain ⟨n, deadTime⟩ := pack16_halves dead samples
  obtain ⟨fs, fHz⟩ := pack16_halves frequency fullScale
  obtain ⟨fgPc, fgPad, isrPc, isrPad⟩ := pcsWord_fields s
  have register {k : Nat} (hk : k < 0x10000) := memRead_register s hk
  have word {x : Nat} (hx : x < 2 ^ 32) : (BitVec.ofNat 32 x).toNat = x := Nat.mod_eq_of_lt hx
  exact ⟨_, _, _, _, _, _, _, _, _, _, _, _,
    register (k := 1) (by decide), idx, passRem,
    register (k := 2) (by decide), extractLsb'_append_low .., extractLsb'_append_high ..,
    register (k := 3) (by decide), fgPc, fgPad, isrPc, isrPad,
    register (k := 4) (by decide), word h.fg_wait_bound,
    register (k := 5) (by decide), word h.deb_bound,
    register (k := 6) (by decide), n, deadTime,
    register (k := 7) (by decide), fs, fHz,
    register (k := 8) (by decide), word (sampleUs_lt s.cfg),
    register (k := 9) (by decide), word gap,
    register (k := 10) (by decide), word debounce,
    register (k := 11) (by decide), BitVec.toNat_ofNat ..,
    register (k := 12) (by decide), BitVec.toNat_ofNat ..⟩

/-- Settles O16: every field of STATUS is peeled off at its offset; all parts are one bit wide but FATAL and the reserved
half. -/
theorem statusRegisterFields : Obligations.StatusRegisterFields := by
  unfold Obligations.StatusRegisterFields
  intro s
  refine ⟨statusWord s, memRead_register s (k := 0) (by decide), ?_⟩
  simp only [statusWord, getLsbD_append_above (w := 1), getLsbD_append_above (w := 3), getLsbD_append_ofBool_zero,
    extractLsb'_append_above (w := 1), extractLsb'_append_above (w := 3), extractLsb'_append_low (w := 3),
    BitVec.extractLsb'_eq_self, and_self]

end Sys2Proof.Machine
end

section
/-! PROOFS. 10_state.md R59, 70_reset_and_hazards.md R238: the power-up state. -/

namespace Sys2Proof.Machine

/-- A block at power-up is at address 0 with its handler not entered and its outputs at 0. -/
theorem initial_canonicalInv {cfg : Config} (hcfg : cfg.wf = true) (btn ok : Bool) (out : List OutEntry)
    (dia : List DiagEntry) (host : List HostEntry) (sched : List Move) :
    (State.initial cfg [] btn ok out dia host sched).CanonicalInv where
  inv := initial_inv hcfg memory_canonical_wf letsTimePass_canonical ..
  rom := rfl
  fg_pc := Nat.zero_le _
  isr_pc := (by decide : 32 ≤ (32 : Addr).toNat ∧ (32 : Addr).toNat ≤ 37)
  fatal := .inl rfl
  boot := fun _ => ⟨rfl, rfl, rfl, rfl, rfl⟩
  put_done := fun _ booted => absurd booted (by simp [State.initial])
  handler_owns := nofun
  edge_kept := nofun
  edge_cleared := nofun

theorem initial_streamInv {cfg : Config} (hcfg : cfg.wf = true) (btn ok : Bool) (out : List OutEntry)
    (dia : List DiagEntry) (host : List HostEntry) (sched : List Move) :
    (State.initial cfg [] btn ok out dia host sched).StreamInv := by
  have start : (State.initial cfg [] btn ok out dia host sched).fgPc = 0 := rfl
  exact {
    canonical := initial_canonicalInv hcfg ..
    between_passes := fun _ => rfl
    before_inc := by simp [start]
    after_inc := by simp [start]
    paired := fun _ _ => .inl ⟨rfl, rfl⟩
    fresh_pair := by simp [start]
    torn_main := by simp [start]
    torn_zero := by simp [start] }

/-- Settles O39: `State.reset` is the power-up state of the reference configuration. -/
theorem powerUpMeetsTheInvariants : Obligations.PowerUpMeetsTheInvariants := by
  unfold Obligations.PowerUpMeetsTheInvariants
  refine ⟨initial_streamInv (by decide) .., fun cfg btn ok sched hcfg => ⟨initial_streamInv hcfg .., ?_⟩⟩
  exact fun rom hrom hpass => initial_inv hcfg hrom hpass ..

end Sys2Proof.Machine
end

section
/-! PROOFS. 20_memory.md R64 to R68, R76, R77: the observation bus. -/

namespace Sys2Proof.Machine

/-! ## Reads and the map -/

theorem readLegal_iff {addr width : Nat} :
    readLegal addr width = true ↔ width = 4 ∧ addr % 4 = 0 ∧ addr < 0x100000 := decide_eq_true_iff

theorem memRead_of_legal (s : State) {addr width : Nat} (h : width = 4 ∧ addr % 4 = 0 ∧ addr < 0x100000) :
    memRead s addr width = .data (busWord s addr) := if_pos (readLegal_iff.mpr h)

theorem memRead_of_illegal (s : State) {addr width : Nat} (h : ¬(width = 4 ∧ addr % 4 = 0 ∧ addr < 0x100000)) :
    memRead s addr width = .busError := if_neg (mt readLegal_iff.mp h)

/-- The registers end at 0x00030. -/
theorem registerWord_reserved (s : State) (k : Nat) : registerWord s (k + 13) = 0 := rfl

theorem busWord_table (s : State) {i : Nat} (hi : i < 65536) : busWord s (0x40000 + 4 * i) = tableWordAt s.cfg i := by
  have aboveRegisters : ¬0x40000 + 4 * i < 0x40000 := by omega
  have inWindow : 0x40000 + 4 * i < 0x80000 := by omega
  have index : (0x40000 + 4 * i - 0x40000) / 4 = i := by omega
  rw [busWord, if_neg aboveRegisters, if_pos inWindow, index]

theorem busWord_above_table (s : State) {addr : Nat} (h : 0x80000 ≤ addr) : busWord s addr = 0 := by
  have aboveRegisters : ¬addr < 0x40000 := by omega
  rw [busWord, if_neg aboveRegisters, if_neg (Nat.not_lt.mpr h)]

/-! ## The table window -/

/-- The table ROM has no entry from N on (20_memory.md R61). -/
theorem tableEntry_beyond {cfg : Config} {i : Nat} (h : cfg.n ≤ i) : tableEntry cfg i = none := if_neg (Nat.not_lt.mpr h)

theorem tableWordAt_of_entry {cfg : Config} {i : Nat} {main comp : Duty} (h : tableEntry cfg i = some (main, comp)) :
    tableWordAt cfg i = comp ++ main := by
  rw [tableWordAt, h]

theorem tableWordAt_beyond {cfg : Config} {i : Nat} (h : cfg.n ≤ i) : tableWordAt cfg i = 0 := by
  rw [tableWordAt, tableEntry_beyond h]

theorem memRead_table (s : State) {i : Nat} (hi : i < 65536) :
    memRead s (0x40000 + 4 * i) 4 = .data (tableWordAt s.cfg i) := by
  rw [memRead_of_legal s ⟨rfl, by omega, by omega⟩, busWord_table s hi]

/-- Settles O18: both clauses on the table are `memRead_table`; a reserved address is a register index from 13 on, or above
the table. -/
theorem tableWindowAndReservedAddresses : Obligations.TableWindowAndReservedAddresses := by
  unfold Obligations.TableWindowAndReservedAddresses
  refine ⟨fun s i main comp hi entry => ?_, fun s i beyond hi => ?_, fun s addr aligned reserved => ?_⟩
  · rw [memRead_table s hi, tableWordAt_of_entry entry]
  · rw [memRead_table s hi, tableWordAt_beyond beyond]
  · obtain ⟨above, below⟩ | ⟨above, below⟩ := reserved
    · obtain ⟨k, rfl⟩ : ∃ k, addr = 4 * (k + 13) := ⟨addr / 4 - 13, by omega⟩
      rw [memRead_register s (by omega), registerWord_reserved]
    · rw [memRead_of_legal s ⟨rfl, aligned, by omega⟩, busWord_above_table s above]

/-! ## Bytes of a word -/

/-- Two neighbouring bytes, the higher one first, are 16 bits of the word. -/
theorem busByte_append_busByte (w : BusWord) (k : Nat) : busByte w (k + 1) ++ busByte w k = w.extractLsb' (8 * k) 16 :=
  BitVec.extractLsb'_append_extractLsb'_eq_extractLsb' rfl

/-- Settles O19: the pairs of bytes are the halves of DUTY, which is CHB above CHA (10_state.md R51). -/
theorem busBytesAreLittleEndian : Obligations.BusBytesAreLittleEndian := by
  unfold Obligations.BusBytesAreLittleEndian
  refine ⟨fun w k j _ hj => ?_, fun s w hread => ?_⟩
  · rw [busByte, BitVec.getLsbD_extractLsb', decide_eq_true hj, Bool.true_and]
  · obtain rfl : s.chB ++ s.chA = w :=
      BusReply.data.inj ((memRead_register s (k := 2) (by decide)).symm.trans hread)
    exact ⟨(busByte_append_busByte _ 0).trans (extractLsb'_append_low ..),
      (busByte_append_busByte _ 2).trans (extractLsb'_append_high ..)⟩

/-! ## Host accesses as steps -/

/-- A machine that exists takes the first scheduled move, whatever it is. -/
theorem step_of_move {s : State} {m : Move} {rest : List Move} (hadm : s.Admitted) (hs : s.schedule = m :: rest) :
    step s = moveStep m { s with schedule := rest } := by
  rw [step_of_admitted hadm, scheduledStep, hs]

/-- Settles O15: `hostRead` and `hostWrite` touch the host's record alone, and the map does not look at the schedule. -/
theorem hostAccessesChangeNothing : Obligations.HostAccessesChangeNothing := by
  unfold Obligations.HostAccessesChangeNothing
  refine ⟨fun s addr width rest hadm hs => ⟨fun legal => ?_, fun illegal => ?_⟩,
    fun s addr width data rest hadm hs => step_of_move hadm hs⟩
  · rw [step_of_move hadm hs, moveStep, hostRead, memRead_of_legal _ legal]
    rfl
  · rw [step_of_move hadm hs, moveStep, hostRead, memRead_of_illegal _ illegal]

end Sys2Proof.Machine
end

section
/-! PROOFS. 00_scope.md R8, 20_memory.md R63, R73: the configuration and the ROM are parameters of the step relation. -/

namespace Sys2Proof.Machine

theorem StepEffect.keeps_parameters {s t : State} (e : StepEffect s t) : t.cfg = s.cfg ∧ t.rom = s.rom := by
  cases e with
  | microOp _ _ effect =>
    obtain ⟨sameCfg, sameRom, -⟩ := effect.frame
    exact ⟨sameCfg, sameRom⟩
  | _ => exact ⟨rfl, rfl⟩

theorem step_keeps_parameters {s t : State} (h : step s = .next t) : t.cfg = s.cfg ∧ t.rom = s.rom := by
  obtain ⟨rest, ⟨level, -, rfl⟩ | effect⟩ := stepEffect_of_step h
  · exact ⟨rfl, rfl⟩
  · exact effect.keeps_parameters

/-- A state is its block with its parameters. -/
theorem State.eq_of_parameters {t : State} {cfg : Config} {rom : Memory} (hcfg : t.cfg = cfg) (hrom : t.rom = rom) :
    { toBlock := t.toBlock, cfg := cfg, rom := rom } = t := by
  rw [← hcfg, ← hrom]

/-- `stepWith` forgets the parameters of the next state, which are those it was given. -/
theorem stepWith_next_iff {cfg : Config} {rom : Memory} {b b' : Block} : stepWith cfg rom b = .next b' ↔
    step { toBlock := b, cfg := cfg, rom := rom } = .next { toBlock := b', cfg := cfg, rom := rom } := by
  unfold stepWith
  cases hstep : step { toBlock := b, cfg := cfg, rom := rom } with
  | next t =>
    obtain ⟨sameCfg, sameRom⟩ := step_keeps_parameters hstep
    rw [← State.eq_of_parameters sameCfg sameRom]
    simp
  | fault | refused => simp

theorem stepWith_fault_iff {cfg : Config} {rom : Memory} {b : Block} {r : Fault} :
    stepWith cfg rom b = .fault r ↔ step { toBlock := b, cfg := cfg, rom := rom } = .fault r := by
  unfold stepWith
  cases step { toBlock := b, cfg := cfg, rom := rom } with
  | next | fault | refused => simp

theorem stepWith_refused_iff {cfg : Config} {rom : Memory} {b : Block} {r : Refusal} :
    stepWith cfg rom b = .refused r ↔ step { toBlock := b, cfg := cfg, rom := rom } = .refused r := by
  unfold stepWith
  cases step { toBlock := b, cfg := cfg, rom := rom } with
  | next | fault | refused => simp

/-- Settles O30: by `step_keeps_parameters` and the three outcomes of `stepWith`. -/
theorem noStepWritesRomOrConfiguration : Obligations.NoStepWritesRomOrConfiguration := by
  unfold Obligations.NoStepWritesRomOrConfiguration
  refine ⟨fun s t hstep => ?_, fun cfg rom b =>
    ⟨fun _ => stepWith_next_iff, fun _ => stepWith_fault_iff, fun _ => stepWith_refused_iff⟩⟩
  obtain ⟨sameCfg, sameRom⟩ := step_keeps_parameters hstep
  exact ⟨sameCfg, fun a => by rw [sameRom]⟩

end Sys2Proof.Machine
end

section
/-! PROOFS. 20_memory.md R62, 60_exceptions.md R215: the micro-ops that stop. -/

namespace Sys2Proof.Machine

theorem execWra_beyond {s : State} (h : s.cfg.n ≤ s.idx) : execWra s = .fault .tableIndexOutOfRange := by
  rw [execWra, tableEntry_beyond h]

theorem execWrb_beyond {s : State} (h : s.cfg.n ≤ s.idx) : execWrb s = .fault .tableIndexOutOfRange := by
  rw [execWrb, tableEntry_beyond h]

theorem waitForeground_running (us : Nat) {s : State} (active : s.fgWaitActive = true) (running : 0 < s.fgWaitRem) :
    waitForeground us s = .refused .stepNotEnabled := by
  rw [waitForeground, if_neg (ne_false_of_eq_true active), if_neg running.ne']

theorem waitHandler_running (us : Nat) {s : State} (active : s.debActive = true) (running : 0 < s.debRem) :
    waitHandler us s = .refused .stepNotEnabled := by
  rw [waitHandler, if_neg (ne_false_of_eq_true active), if_neg running.ne']

/-- Settles O29: WRA and WRB find no table entry; WAITS and GAP are one foreground wait, DEBOUNCE the handler's. -/
theorem formsThatStop : Obligations.FormsThatStop := by
  unfold Obligations.FormsThatStop
  exact fun s => ⟨fun beyond => ⟨execWra_beyond beyond, execWrb_beyond beyond⟩,
    fun active running => ⟨waitForeground_running _ active running, waitForeground_running _ active running⟩,
    fun active running => waitHandler_running _ active running⟩

end Sys2Proof.Machine
end

section
/-! PROOFS. 30_encoding.md R81 to R88: decode and encode, and the illegal words. -/

namespace Sys2Proof

/-! ## Decode and encode agree -/

/-- The family RoundTrip, gathered: a micro-op's word decodes to it in its own context and is refused in the other. -/
theorem decode_encode (i : Instr) (ctx : Context) :
    decode ctx (encode i) = if i.context = ctx then .ok i else .error .context := by
  cases i with
  | init => exact Laws.RoundTrip.init ctx
  | put => exact Laws.RoundTrip.put ctx
  | unmask => exact Laws.RoundTrip.unmask ctx
  | poll target => exact Laws.RoundTrip.poll target ctx
  | setind v => exact Laws.RoundTrip.setind v ctx
  | passinit => exact Laws.RoundTrip.passinit ctx
  | wra => exact Laws.RoundTrip.wra ctx
  | wrb => exact Laws.RoundTrip.wrb ctx
  | inc => exact Laws.RoundTrip.inc ctx
  | waits => exact Laws.RoundTrip.waits ctx
  | passnext target => exact Laws.RoundTrip.passnext target ctx
  | diag v => exact Laws.RoundTrip.diag v ctx
  | za => exact Laws.RoundTrip.za ctx
  | zb => exact Laws.RoundTrip.zb ctx
  | gap => exact Laws.RoundTrip.gap ctx
  | jmp target => exact Laws.RoundTrip.jmp target ctx
  | take => exact Laws.RoundTrip.take ctx
  | test target => exact Laws.RoundTrip.test target ctx
  | toggle => exact Laws.RoundTrip.toggle ctx
  | clear => exact Laws.RoundTrip.clear ctx
  | debounce => exact Laws.RoundTrip.debounce ctx
  | reti => exact Laws.RoundTrip.reti ctx

/-- The operand forms lose nothing: the two fields are those of the micro-op's own word. -/
theorem encode_of_decodeOperands {op : BitVec 5} {a : BitVec 11} {i : Instr} (h : decodeOperands op a = .ok i) :
    encode i = wordOf op a := by
  unfold decodeOperands at h
  split at h
  case h_23 => cases h
  all_goals
    rename_i hop
    obtain ⟨-, rfl⟩ := BitVec.toNat_eq_nat.mp hop
  -- form T
  case h_4 | h_11 | h_16 | h_18 =>
    obtain rfl := formT_ok h
    rfl
  -- form V
  case h_5 | h_12 =>
    obtain ⟨v, rfl, rfl⟩ := formV_ok h
    rfl
  -- form N
  all_goals
    obtain ⟨rfl, rfl⟩ := formN_ok h
    rfl

/-- Decode takes its micro-ops from the operand forms alone; the context only refuses. -/
theorem decodeOperands_of_decode {ctx : Context} {w : Word} {i : Instr} (h : decode ctx w = .ok i) :
    decodeOperands (opField w) (aField w) = .ok i := by
  unfold decode at h
  split at h
  · cases h
  · split at h
    · exact h
    · cases h

theorem encode_of_decode {ctx : Context} {w : Word} {i : Instr} (h : decode ctx w = .ok i) : encode i = w :=
  (encode_of_decodeOperands (decodeOperands_of_decode h)).trans (wordOf_fields w)

theorem decode_ok_iff {ctx : Context} {w : Word} {i : Instr} :
    decode ctx w = .ok i ↔ encode i = w ∧ i.context = ctx := by
  refine ⟨fun h => ⟨encode_of_decode h, context_of_decode h⟩, ?_⟩
  rintro ⟨rfl, hctx⟩
  rw [decode_encode, if_pos hctx]

/-- Settles O4: a decoded word is rebuilt from its two fields, and each micro-op has its RoundTrip lemma. -/
theorem decodeAndEncodeAgree : Obligations.DecodeAndEncodeAgree := by
  unfold Obligations.DecodeAndEncodeAgree
  exact fun _ _ _ => decode_ok_iff

/-! ## The illegal words -/

theorem toNat_opField (w : Word) : (opField w).toNat = w.toNat / 2048 := by
  simp only [opField, BitVec.extractLsb'_toNat, Nat.shiftRight_eq_div_pow]
  omega

theorem toNat_aField (w : Word) : (aField w).toNat = w.toNat % 2048 := by
  simp [aField]

theorem formN_error {a : BitVec 11} {i : Instr} {e : Illegal} (h : formN a i = .error e) : a.toNat ≠ 0 := by
  unfold formN at h
  split at h
  · cases h
  · rename_i ha
    exact fun h0 => ha (BitVec.eq_of_toNat_eq h0)

theorem formV_error {a : BitVec 11} {f : Bool → Instr} {e : Illegal} (h : formV a f = .error e) :
    a.toNat / 2 ≠ 0 := by
  unfold formV at h
  split at h
  · cases h
  · rename_i ha
    refine fun h0 => ha (BitVec.eq_of_toNat_eq ?_)
    simp [Nat.shiftRight_eq_div_pow, h0]

/-- The operand forms refuse a word for its opcode or for a reserved operand bit. -/
theorem decodeOperands_error {op : BitVec 5} {a : BitVec 11} {e : Illegal} (h : decodeOperands op a = .error e) :
    (op.toNat = 0 ∨ 0x17 ≤ op.toNat) ∨ (op.toNat ∈ [0x05, 0x0C] ∧ a.toNat / 2 ≠ 0) ∨
      (op.toNat ∉ [0x05, 0x0C] ∧ op.toNat ∉ [0x04, 0x0B, 0x10, 0x12] ∧ a.toNat ≠ 0) := by
  unfold decodeOperands at h
  split at h
  case h_23 =>
    left
    simp only [imp_false] at *
    omega
  all_goals
    rename_i hop
    rw [hop]
  -- form T
  case h_4 | h_11 | h_16 | h_18 => cases h
  -- form V
  case h_5 | h_12 => exact .inr (.inl ⟨by decide, formV_error h⟩)
  -- form N
  all_goals exact .inr (.inr ⟨by decide, by decide, formN_error h⟩)

/-- R85 and R86 on the two fields of a word as numbers. -/
def IllegalFields (ctx : Context) (op a : Nat) : Prop :=
  op = 0 ∨ 0x17 ≤ op ∨ (ctx = .fg ∧ 0x11 ≤ op) ∨ (ctx = .isr ∧ op ≤ 0x10) ∨
    (op ∈ [0x05, 0x0C] ∧ a / 2 ≠ 0) ∨ (op ∉ [0x05, 0x0C] ∧ op ∉ [0x04, 0x0B, 0x10, 0x12] ∧ a ≠ 0)

theorem illegalFields_of_opContext_ne {ctx : Context} {op : BitVec 5} (a : Nat) (h : opContext op ≠ some ctx) :
    IllegalFields ctx op.toNat a := by
  unfold IllegalFields
  by_contra! hlegal
  obtain ⟨hzero, htop, hfg, hisr, -⟩ := hlegal
  have hop : ¬(op = 0 ∨ 0x17 ≤ op.toNat) := by
    rintro (rfl | htop')
    · exact hzero rfl
    · omega
  refine h ?_
  rw [opContext, if_neg hop]
  cases ctx with
  | fg => exact if_pos (Nat.le_of_lt_succ (hfg rfl))
  | isr => exact if_neg (Nat.not_le.mpr (hisr rfl))

/-- What decode refuses is illegal: the opcode, its context, or a reserved operand bit. -/
theorem illegalFields_of_decode_error {ctx : Context} {w : Word} {e : Illegal} (h : decode ctx w = .error e) :
    IllegalFields ctx (opField w).toNat (aField w).toNat := by
  by_cases hctx : opContext (opField w) = some ctx
  · have hoperands : decodeOperands (opField w) (aField w) = .error e := by
      simpa [decode, hctx] using h
    obtain hop | hreserved := decodeOperands_error hoperands
    · exact hop.elim .inl fun htop => .inr (.inl htop)
    · exact .inr (.inr (.inr (.inr hreserved)))
  · exact illegalFields_of_opContext_ne _ hctx

/-- The micro-op of an opcode, with operand bit 0 or target `a` (R82, R84). -/
def microOpOfFields (op a : Nat) : Instr :=
  match op with
  | 0x01 => .init
  | 0x02 => .put
  | 0x03 => .unmask
  | 0x04 => .poll (BitVec.ofNat 11 a)
  | 0x05 => .setind (a == 1)
  | 0x06 => .passinit
  | 0x07 => .wra
  | 0x08 => .wrb
  | 0x09 => .inc
  | 0x0A => .waits
  | 0x0B => .passnext (BitVec.ofNat 11 a)
  | 0x0C => .diag (a == 1)
  | 0x0D => .za
  | 0x0E => .zb
  | 0x0F => .gap
  | 0x10 => .jmp (BitVec.ofNat 11 a)
  | 0x11 => .take
  | 0x12 => .test (BitVec.ofNat 11 a)
  | 0x13 => .toggle
  | 0x14 => .clear
  | 0x15 => .debounce
  | _ => .reti

/-- The word of a micro-op is legal in its own context, and its fields name the micro-op. -/
theorem encode_fields (i : Instr) :
    ¬IllegalFields i.context (opField (encode i)).toNat (aField (encode i)).toNat ∧
      microOpOfFields (opField (encode i)).toNat (aField (encode i)).toNat = i := by
  unfold IllegalFields
  cases i with
  -- form T
  | poll target | passnext target | jmp target | test target => simp [encode, microOpOfFields, Instr.context]
  -- form V
  | setind v | diag v => cases v <;> decide
  -- form N
  | _ => decide

/-- Settles O5 from O4: what decode answers is a micro-op that encodes to the word (`encode_fields`); what it refuses is
illegal (`illegalFields_of_decode_error`). -/
theorem decodeIsTotalAndRefusesTheIllegalWords : Obligations.DecodeIsTotalAndRefusesTheIllegalWords := by
  unfold Obligations.DecodeIsTotalAndRefusesTheIllegalWords
  intro ctx w
  rw [← toNat_opField, ← toNat_aField]
  cases h : decode ctx w with
  | ok i =>
    obtain ⟨rfl, rfl⟩ := decode_ok_iff.mp h
    obtain ⟨hlegal, hmicroOp⟩ := encode_fields i
    exact ⟨fun illegal => absurd illegal hlegal, fun _ => congrArg Except.ok hmicroOp.symm⟩
  | error e => exact ⟨fun _ => ⟨e, rfl⟩, fun legal => absurd (illegalFields_of_decode_error h) legal⟩

end Sys2Proof
end

section
/-! PROOFS. 30_encoding.md R91 to R93: the canonical image and the assembler. -/

namespace Sys2Proof.Machine

theorem canonicalWord_outside {a : Nat} (h : (19 ≤ a ∧ a < 32) ∨ 38 ≤ a) : canonicalWord a = 0x0000 := by
  obtain ⟨hbeyond, hlow⟩ | hbeyond := h
  · exact (if_pos hlow).trans (List.getD_eq_default _ _ hbeyond)
  · exact (if_neg (by omega)).trans (List.getD_eq_default _ _ (Nat.le_sub_of_add_le hbeyond))

/-- Settles O3: 25 words evaluated, and the default value beyond the two images. -/
theorem canonicalRomHoldsTheMicroPrograms : Obligations.CanonicalRomHoldsTheMicroPrograms := by
  unfold Obligations.CanonicalRomHoldsTheMicroPrograms
  exact ⟨by decide, by decide, fun _ => canonicalWord_outside⟩

/-- Settles O6 by running the assembler on the six sources. -/
theorem assemblerYieldsTheCanonicalImage : Obligations.AssemblerYieldsTheCanonicalImage := by
  unfold Obligations.AssemblerYieldsTheCanonicalImage
  exact ⟨by decide, by decide, by decide, by decide, by decide, by decide⟩

end Sys2Proof.Machine
end

section
/-! PROOFS. 30_encoding.md R87: a sequencer's step is fetch, decode and execute. -/

namespace Sys2Proof.Machine

/-- Where the block's own step is next and enabled, the machine takes it, with the rest of the schedule carried along. -/
theorem step_of_blockNext {s : State} {rest : List Move} (hadm : s.Admitted) (hnext : BlockNext s rest)
    (hblock : blockEnabled s = true) : step s = blockStep { s with schedule := rest } := by
  obtain hs | ⟨hs, rfl⟩ := hnext
  · exact step_of_move hadm hs
  · rw [step_of_block hadm hs hblock, ← hs]

theorem blockEnabled_of_contextEnabled {ctx : Context} {s : State} (h : contextEnabled ctx s = true) :
    blockEnabled s = true := by
  cases ctx with
  | fg => simp [blockEnabled, show fgEnabled s = true from h]
  | isr => simp [blockEnabled, show isrEnabled s = true from h]

/-- An enabled sequencer is alone: neither an interrupt entry nor the other sequencer comes before it. -/
theorem blockStep_of_contextEnabled {ctx : Context} {s : State} (h : contextEnabled ctx s = true) :
    blockStep s = sequencerStep ctx s := by
  cases ctx with
  | fg =>
    change fgEnabled s = true at h
    obtain ⟨-, outside, noEntry, -⟩ := fgEnabled_iff.mp h
    have hentry : ¬entryEnabled s = true := by
      intro entry
      obtain ⟨-, pend, irqEn, -⟩ := entryEnabled_iff.mp entry
      exact noEntry ⟨pend, irqEn⟩
    have hisr : ¬isrEnabled s = true := by simp [isrEnabled, outside]
    rw [blockStep, if_neg hentry, if_neg hisr, if_pos h]
  | isr =>
    change isrEnabled s = true at h
    obtain ⟨-, inside, -⟩ := isrEnabled_iff.mp h
    have hentry : ¬entryEnabled s = true := by simp [entryEnabled, inside]
    rw [blockStep, if_neg hentry, if_pos h]

theorem sequencerStep_of_ok {ctx : Context} {s : State} {i : Instr} (h : decode ctx (fetchWord ctx s) = .ok i) :
    sequencerStep ctx s = exec i s := by
  rw [sequencerStep, h]

theorem sequencerStep_of_error {ctx : Context} {s : State} {e : Illegal} (h : decode ctx (fetchWord ctx s) = .error e) :
    sequencerStep ctx s = .next (raiseFatal .illegalMicroOp s) := by
  rw [sequencerStep, h]

/-- Where the block's own step is next and a sequencer is enabled, the step is that sequencer's. -/
theorem step_of_sequencer {ctx : Context} {s : State} {rest : List Move} (hadm : s.Admitted) (hnext : BlockNext s rest)
    (henabled : contextEnabled ctx s = true) : step s = sequencerStep ctx { s with schedule := rest } := by
  rw [step_of_blockNext hadm hnext (blockEnabled_of_contextEnabled henabled)]
  exact blockStep_of_contextEnabled (by cases ctx <;> exact henabled)

/-- Settles O7: the step is the enabled sequencer's, and the decoded word says which of its two outcomes. -/
theorem stepFetchesDecodesAndExecutes : Obligations.StepFetchesDecodesAndExecutes := by
  unfold Obligations.StepFetchesDecodesAndExecutes
  intro s rest hadm hnext
  refine ⟨fun (fg : contextEnabled .fg s = true) => ⟨fun i fetched => ?_, fun e fetched => ?_⟩,
    fun (isr : contextEnabled .isr s = true) => ⟨fun i fetched => ?_, fun e fetched => ?_⟩⟩
  · exact (step_of_sequencer hadm hnext fg).trans (sequencerStep_of_ok fetched)
  · exact (step_of_sequencer hadm hnext fg).trans (sequencerStep_of_error fetched)
  · exact (step_of_sequencer hadm hnext isr).trans (sequencerStep_of_ok fetched)
  · exact (step_of_sequencer hadm hnext isr).trans (sequencerStep_of_error fetched)

end Sys2Proof.Machine
end

section
/-! PROOFS. 40_generator.md: the table is the exact rounded sine, and what follows for its entries. -/

namespace Sys2Proof.Machine

open Real

/-! ### The bisection finds the rounded sine -/

/-- Bisection finds `F` where `dutyReaches` decides `m ≤ F` and the search's span holds `F`. -/
theorem searchDuty_eq {n fs i F : ℕ} (reaches : ∀ m, 0 < m → (dutyReaches n fs i m = true ↔ m ≤ F)) (bits : ℕ) :
    ∀ acc, acc ≤ F → F < acc + 2 ^ bits → searchDuty n fs i bits acc = F := by
  induction bits with
  | zero =>
    intro acc hlo hhi
    have : acc = F := by omega
    simpa [searchDuty] using this
  | succ bits ih =>
    intro acc hlo hhi
    have hmid := reaches (acc + 2 ^ bits) (by positivity)
    rw [pow_succ] at hhi
    rw [searchDuty]
    by_cases hle : acc + 2 ^ bits ≤ F
    · rw [if_pos (hmid.mpr hle)]
      exact ih _ hle (by omega)
    · rw [if_neg (mt hmid.mp hle)]
      exact ih _ hlo (by omega)

theorem scaledSine_bounds (n fs i : ℕ) : 1 / 2 ≤ scaledSine n fs i ∧ scaledSine n fs i ≤ fs + 1 / 2 := by
  have hlo := Real.neg_one_le_sin (2 * π * i / n)
  have hhi := Real.sin_le_one (2 * π * i / n)
  have hfs : (0 : ℝ) ≤ fs := Nat.cast_nonneg fs
  unfold scaledSine
  constructor <;> nlinarith

theorem floor_scaledSine_le (n fs i : ℕ) : ⌊scaledSine n fs i⌋₊ ≤ fs := by
  have hhi := (scaledSine_bounds n fs i).2
  exact Nat.lt_succ_iff.mp (Nat.floor_lt' (Nat.succ_ne_zero fs) |>.mpr (by push_cast; linarith))

theorem mainRaw_eq_natFloor {n fs i : ℕ} (hi : i < n) (hfs : 1 ≤ fs ∧ fs ≤ 65535) :
    mainRaw n fs i = ⌊scaledSine n fs i⌋₊ := by
  have hlo := (scaledSine_bounds n fs i).1
  have hle := floor_scaledSine_le n fs i
  refine searchDuty_eq (fun m hm => ?_) 16 0 (Nat.zero_le _) (by omega)
  rw [dutyReaches_iff hi hfs.1 hm, Nat.le_floor_iff (by linarith)]

/-- R104, for the indices and the full scales that R9 allows. -/
theorem mainRaw_eq_floor {n fs i : ℕ} (hi : i < n) (hfs : 1 ≤ fs ∧ fs ≤ 65535) :
    (mainRaw n fs i : ℤ) = ⌊scaledSine n fs i⌋ := by
  rw [mainRaw_eq_natFloor hi hfs, Int.natCast_floor_eq_floor (by linarith [(scaledSine_bounds n fs i).1])]

theorem mainRaw_le {n fs i : ℕ} (hi : i < n) (hfs : 1 ≤ fs ∧ fs ≤ 65535) : mainRaw n fs i ≤ fs :=
  mainRaw_eq_natFloor hi hfs ▸ floor_scaledSine_le n fs i

/-! ### An entry in terms of its raw duties -/

theorem generate_of_pos {n : ℕ} (fs dead : ℕ) (hn : 1 ≤ n) :
    generate fs n dead = some ((List.range n).map (dutyPair n dead fs)) := if_neg (by omega)

theorem tableEntry_of_lt {cfg : Config} {i : ℕ} (hi : i < cfg.n) :
    tableEntry cfg i = some (dutyPair cfg.n cfg.dead cfg.fs i) := if_pos hi

/-- What R105 to R107 say of an entry: the raw duty within FS, and the dead-time off each channel without truncation. -/
structure EntryFacts (cfg : Config) (i : ℕ) (main comp : Duty) : Prop where
  lt : i < cfg.n
  raw_le : mainRaw cfg.n cfg.fs i ≤ cfg.fs
  compRaw_eq : compRaw cfg.n cfg.fs i = cfg.fs - mainRaw cfg.n cfg.fs i
  main_eq : main.toNat = mainRaw cfg.n cfg.fs i - cfg.dead
  comp_eq : comp.toNat = compRaw cfg.n cfg.fs i - cfg.dead

theorem entryFacts {cfg : Config} {i : ℕ} {main comp : Duty} (hcfg : cfg.wf = true)
    (h : tableEntry cfg i = some (main, comp)) : EntryFacts cfg i main comp := by
  obtain ⟨-, -, hfs, -⟩ := config_wf_cases hcfg
  have hi : i < cfg.n := by
    by_contra hge
    rw [tableEntry_beyond (not_lt.mp hge)] at h
    cases h
  rw [tableEntry_of_lt hi] at h
  cases h
  have raw_le := mainRaw_le hi hfs
  have compRaw_eq : compRaw cfg.n cfg.fs i = cfg.fs - mainRaw cfg.n cfg.fs i := satsub_eq_sub _ _
  refine ⟨hi, raw_le, compRaw_eq, ?_, ?_⟩ <;>
    rw [BitVec.toNat_ofNat, satsub_eq_sub] <;> exact Nat.mod_eq_of_lt (by omega)

/-- Settles O55: `searchDuty` bisects to the floor of `scaledSine`. -/
theorem tableIsTheExactRoundedSine : Obligations.TableIsTheExactRoundedSine := by
  unfold Obligations.TableIsTheExactRoundedSine
  intro cfg hcfg
  obtain ⟨hn, -, hfs, -⟩ := config_wf_cases hcfg
  refine ⟨_, generate_of_pos _ _ hn.1, by simp, fun i hi => ?_⟩
  have entry := tableEntry_of_lt hi
  obtain ⟨-, raw_le, compRaw_eq, main_eq, comp_eq⟩ := entryFacts hcfg entry
  refine ⟨_, _, by simp [hi, dutyPair], entry, ?_⟩
  intro raw
  have hraw : mainRaw cfg.n cfg.fs i = raw := mainRaw_eq_floor hi hfs
  omega

/-- Settles O56: both raw duties are at most FS. -/
theorem entriesStayBelowFullScaleLessDeadTime : Obligations.EntriesStayBelowFullScaleLessDeadTime := by
  unfold Obligations.EntriesStayBelowFullScaleLessDeadTime
  intro cfg i main comp hcfg entry
  obtain ⟨-, raw_le, compRaw_eq, main_eq, comp_eq⟩ := entryFacts hcfg entry
  rw [satsub_eq_sub]
  omega

/-- Settles O57: the raw duties add up to FS, and each channel loses DEAD down to 0. -/
theorem pairSumsFollowTheDeadTime : Obligations.PairSumsFollowTheDeadTime := by
  unfold Obligations.PairSumsFollowTheDeadTime
  intro cfg i main comp hcfg entry mraw craw
  obtain ⟨-, raw_le, compRaw_eq, main_eq, comp_eq⟩ := entryFacts hcfg entry
  rw [satsub_eq_sub]
  omega

/-! ### The mirrored entry -/

/-- The sine at the mirrored index, `(N - i) mod N`, is the negated sine. -/
theorem sin_mirror {n i : ℕ} (hi : i < n) :
    sin (2 * π * ((n - i) % n : ℕ) / n) = -sin (2 * π * i / n) := by
  have hn : (n : ℝ) ≠ 0 := by exact_mod_cast (by omega : n ≠ 0)
  rcases Nat.eq_zero_or_pos i with rfl | hpos
  · simp
  · rw [Nat.mod_eq_of_lt (by omega), ← Real.sin_two_pi_sub]
    congr 1
    rw [Nat.cast_sub hi.le]
    field_simp

theorem scaledSine_mirror {n i : ℕ} (fs : ℕ) (hi : i < n) :
    scaledSine n fs ((n - i) % n) = fs + 1 - scaledSine n fs i := by
  rw [scaledSine, sin_mirror hi, scaledSine]
  ring

theorem floor_scaledSine_mirror {n i : ℕ} (fs : ℕ) (hi : i < n) :
    ⌊scaledSine n fs ((n - i) % n)⌋ = fs + 1 - ⌈scaledSine n fs i⌉ := by
  have split : scaledSine n fs ((n - i) % n) = ((fs + 1 : ℤ) : ℝ) + -scaledSine n fs i := by
    rw [scaledSine_mirror fs hi]
    push_cast
    ring
  rw [split, Int.floor_intCast_add, Int.floor_neg]
  ring

/-- The raw duties of an entry and its mirror add up to FS, or to one more where both are rounded up at a tie (R111). -/
theorem mainRaw_add_mirror {n fs i : ℕ} (hi : i < n) (hfs : 1 ≤ fs ∧ fs ≤ 65535) :
    mainRaw n fs i + mainRaw n fs ((n - i) % n) = fs ∨
    (mainRaw n fs i + mainRaw n fs ((n - i) % n) = fs + 1 ∧ Int.fract (scaledSine n fs i) = 0) := by
  have raw := mainRaw_eq_floor hi hfs
  have raw' := mainRaw_eq_floor (Nat.mod_lt (n - i) (by omega : 0 < n)) hfs
  rw [floor_scaledSine_mirror fs hi] at raw'
  by_cases tie : scaledSine n fs i ∈ Set.range Int.cast
  · have ceil : ⌈scaledSine n fs i⌉ = ⌊scaledSine n fs i⌋ := by
      obtain ⟨z, hz⟩ := tie
      rw [← hz, Int.ceil_intCast, Int.floor_intCast]
    exact .inr ⟨by omega, Int.fract_eq_zero_iff.mpr tie⟩
  · have ceil := (Int.ceil_eq_floor_add_one_iff_notMem _).mpr tie
    exact .inl (by omega)

/-- A number that reaches an integer when half is added has the fractional part a half. -/
theorem fract_eq_half_of_fract_add_half {x : ℝ} (h : Int.fract (x + 1 / 2) = 0) : Int.fract x = 1 / 2 := by
  obtain ⟨z, hz⟩ := Int.fract_eq_zero_iff.mp h
  exact Int.fract_eq_iff.mpr ⟨by norm_num, by norm_num, z - 1, by push_cast; linarith⟩

/-- Settles O58: the mirrored sine is the negated one, so the two raw duties round to a sum of FS but at a tie. -/
theorem tableIsSymmetricUpToTies : Obligations.TableIsSymmetricUpToTies := by
  unfold Obligations.TableIsSymmetricUpToTies
  intro cfg i main comp main' comp' hcfg entry mirror
  obtain ⟨-, -, hfs, -⟩ := config_wf_cases hcfg
  obtain ⟨hi, -, -, main_eq, -⟩ := entryFacts hcfg entry
  obtain ⟨-, raw_le', compRaw_eq', -, comp_eq'⟩ := entryFacts hcfg mirror
  rcases mainRaw_add_mirror hi hfs with sum | ⟨sum, tie⟩
  · exact ⟨by omega, by omega⟩
  · exact ⟨by omega, fun _ => fract_eq_half_of_fract_add_half tie⟩

/-- Settles O59: a channel is its raw duty less DEAD, floored at 0. -/
theorem deadTimeSaturatesEachChannelAtZero : Obligations.DeadTimeSaturatesEachChannelAtZero := by
  unfold Obligations.DeadTimeSaturatesEachChannelAtZero
  refine ⟨fun cfg i main comp hcfg entry => ?_, by decide +kernel⟩
  obtain ⟨-, -, -, main_eq, comp_eq⟩ := entryFacts hcfg entry
  rw [← BitVec.toNat_inj, ← BitVec.toNat_inj, main_eq, comp_eq]
  exact ⟨Nat.sub_eq_zero_iff_le, Nat.sub_eq_zero_iff_le⟩

/-! ### The dump tool -/

theorem runTool_of_generate {cfg : Config} {table : List (Duty × Duty)} (hwf : toolWf cfg = true)
    (h : generate cfg.fs cfg.toolN cfg.toolDead = some table) :
    runTool cfg = some { stdout := String.join (table.map dumpLine), exitCode := 0 } := by
  rw [runTool, if_pos hwf, h, Option.map_some]

/-- Settles O60: constants in range pass the tool's check, and the lines are those of the generated table. -/
theorem dumpToolPrintsTheTable : Obligations.DumpToolPrintsTheTable := by
  unfold Obligations.DumpToolPrintsTheTable
  refine ⟨fun cfg hlo hhi hdead => ?_, ?_⟩
  · have table := generate_of_pos cfg.fs cfg.toolDead hlo
    exact ⟨_, table, runTool_of_generate (decide_eq_true ⟨hlo, hhi, hdead⟩) table⟩
  · have table : generate 65535 4 0 = some [(32768, 32767), (65535, 0), (32768, 32767), (0, 65535)] := by
      decide +kernel
    exact runTool_of_generate (cfg := { Config.reference with toolN := 4, toolDead := 0 }) rfl table

end Sys2Proof.Machine
end

section
/-! PROOFS. 42_control.md R151, 43_enable_source.md R181: the canonical micro-programs as placements, a micro-op at each
address, and the bounds of the two program counters. -/

namespace Sys2Proof.Machine

/-- The canonical MP_FG (42_control.md R151): which micro-op is at an address. -/
inductive ForegroundAt (a : Addr) : Instr → Prop where
  | init (pc : a = 0) : ForegroundAt a .init
  | put (pc : a = 1) : ForegroundAt a .put
  | unmask (pc : a = 2) : ForegroundAt a .unmask
  | poll (pc : a = 3) : ForegroundAt a (.poll 13)
  | setind_running (pc : a = 4) : ForegroundAt a (.setind true)
  | passinit (pc : a = 5) : ForegroundAt a .passinit
  | wra (pc : a = 6) : ForegroundAt a .wra
  | wrb (pc : a = 7) : ForegroundAt a .wrb
  | inc (pc : a = 8) : ForegroundAt a .inc
  | waits (pc : a = 9) : ForegroundAt a .waits
  | passnext (pc : a = 10) : ForegroundAt a (.passnext 6)
  | diag_running (pc : a = 11) : ForegroundAt a (.diag true)
  | jmp_gap (pc : a = 12) : ForegroundAt a (.jmp 17)
  | setind_paused (pc : a = 13) : ForegroundAt a (.setind false)
  | za (pc : a = 14) : ForegroundAt a .za
  | zb (pc : a = 15) : ForegroundAt a .zb
  | diag_paused (pc : a = 16) : ForegroundAt a (.diag false)
  | gap (pc : a = 17) : ForegroundAt a .gap
  | jmp_poll (pc : a = 18) : ForegroundAt a (.jmp 3)

/-- The canonical MP_ISR (43_enable_source.md R181): which micro-op is at an address. -/
inductive HandlerAt (a : Addr) : Instr → Prop where
  | take (pc : a = 32) : HandlerAt a .take
  | test (pc : a = 33) : HandlerAt a (.test 37)
  | toggle (pc : a = 34) : HandlerAt a .toggle
  | clear (pc : a = 35) : HandlerAt a .clear
  | debounce (pc : a = 36) : HandlerAt a .debounce
  | reti (pc : a = 37) : HandlerAt a .reti

/-! ## Placement and decode agree -/

theorem ForegroundAt.fetched {s : State} {i : Instr} (place : ForegroundAt s.fgPc i) (rom : s.rom = []) :
    decode .fg (fetchWord .fg s) = .ok i := by
  rw [fetchWord, rom, pcOf_fg]
  cases place with
  | _ pc => rw [pc]; rfl

theorem HandlerAt.fetched {s : State} {i : Instr} (place : HandlerAt s.isrPc i) (rom : s.rom = []) :
    decode .isr (fetchWord .isr s) = .ok i := by
  rw [fetchWord, rom, pcOf_isr]
  cases place with
  | _ pc => rw [pc]; rfl

theorem exists_foregroundAt {a : Addr} (h : a.toNat ≤ 18) : ∃ i, ForegroundAt a i := by
  have address : a = BitVec.ofNat 11 a.toNat := by simp
  generalize a.toNat = n at h address
  interval_cases n
  · exact ⟨_, .init address⟩
  · exact ⟨_, .put address⟩
  · exact ⟨_, .unmask address⟩
  · exact ⟨_, .poll address⟩
  · exact ⟨_, .setind_running address⟩
  · exact ⟨_, .passinit address⟩
  · exact ⟨_, .wra address⟩
  · exact ⟨_, .wrb address⟩
  · exact ⟨_, .inc address⟩
  · exact ⟨_, .waits address⟩
  · exact ⟨_, .passnext address⟩
  · exact ⟨_, .diag_running address⟩
  · exact ⟨_, .jmp_gap address⟩
  · exact ⟨_, .setind_paused address⟩
  · exact ⟨_, .za address⟩
  · exact ⟨_, .zb address⟩
  · exact ⟨_, .diag_paused address⟩
  · exact ⟨_, .gap address⟩
  · exact ⟨_, .jmp_poll address⟩

theorem exists_handlerAt {a : Addr} (h : 32 ≤ a.toNat ∧ a.toNat ≤ 37) : ∃ i, HandlerAt a i := by
  have address : a = BitVec.ofNat 11 a.toNat := by simp
  obtain ⟨low, high⟩ := h
  generalize a.toNat = n at low high address
  interval_cases n
  · exact ⟨_, .take address⟩
  · exact ⟨_, .test address⟩
  · exact ⟨_, .toggle address⟩
  · exact ⟨_, .clear address⟩
  · exact ⟨_, .debounce address⟩
  · exact ⟨_, .reti address⟩

theorem State.CanonicalInv.foregroundAt {s : State} {i : Instr} (h : s.CanonicalInv)
    (fetched : decode .fg (fetchWord .fg s) = .ok i) : ForegroundAt s.fgPc i := by
  obtain ⟨j, place⟩ := exists_foregroundAt h.fg_pc
  obtain rfl : j = i := Except.ok.inj ((place.fetched h.rom).symm.trans fetched)
  exact place

theorem State.CanonicalInv.handlerAt {s : State} {i : Instr} (h : s.CanonicalInv)
    (fetched : decode .isr (fetchWord .isr s) = .ok i) : HandlerAt s.isrPc i := by
  obtain ⟨j, place⟩ := exists_handlerAt h.isr_pc
  obtain rfl : j = i := Except.ok.inj ((place.fetched h.rom).symm.trans fetched)
  exact place

/-- The canonical programs hold no illegal word where a sequencer fetches (60_exceptions.md R210). -/
theorem State.CanonicalInv.decode_ne_error {s : State} (h : s.CanonicalInv) (ctx : Context) (e : Illegal) :
    decode ctx (fetchWord ctx s) ≠ .error e := by
  cases ctx with
  | fg =>
    obtain ⟨i, place⟩ := exists_foregroundAt h.fg_pc
    rw [place.fetched h.rom]
    nofun
  | isr =>
    obtain ⟨i, place⟩ := exists_handlerAt h.isr_pc
    rw [place.fetched h.rom]
    nofun

/-! ## The foreground stays in its program -/

theorem ForegroundAt.past_boot {s : State} {i : Instr} (place : ForegroundAt s.fgPc i) (hinit : i ≠ .init) (hput : i ≠ .put)
    (hunmask : i ≠ .unmask) : 3 ≤ s.fgPc.toNat := by
  cases place with
  | init => exact absurd rfl hinit
  | put => exact absurd rfl hput
  | unmask => exact absurd rfl hunmask
  | _ pc => rw [pc]; decide

/-- Past the boot, a foreground micro-op goes to an address past the boot (42_control.md R151). -/
theorem ForegroundAt.fgPc_bounds {s t : State} {i : Instr} (place : ForegroundAt s.fgPc i) (effect : MicroOpEffect s i t)
    (past : 3 ≤ s.fgPc.toNat) : 3 ≤ t.fgPc.toNat ∧ t.fgPc.toNat ≤ 18 := by
  cases place with
  | init pc | put pc | unmask pc => rw [pc] at past; exact absurd past (by decide)
  | _ pc => cases effect <;> simp [pc]

end Sys2Proof.Machine
end

section
/-! PROOFS. 42_control.md R163, 43_enable_source.md R184, R185, 60_exceptions.md R208 to R210: every step keeps the boot,
hand-off and handler invariant. -/

namespace Sys2Proof.Machine

/-- The handler runs after the boot only, because the boot ends by unmasking it. -/
theorem State.CanonicalInv.booted_of_inIsr {s : State} (h : s.CanonicalInv) (inside : s.inIsr = true) :
    2 < s.fgPc.toNat := by
  by_contra early
  obtain ⟨-, outside, -⟩ := h.boot (Nat.le_of_not_lt early)
  exact absurd inside (ne_true_of_eq_false outside)

/-- TAKE finds the resource in the slot where the handler does not own it yet (43_enable_source.md R184). -/
theorem State.CanonicalInv.slot_or_owned {s : State} (h : s.CanonicalInv) (inside : s.inIsr = true) :
    s.slotFull = true ∨ s.owned = true := by
  have booted := h.booted_of_inIsr inside
  refine h.put_done ?_ booted.le
  cases hv : s.cfg.variant with
  | toggle => rfl
  | freeRun => exact absurd hv (h.inv.toggle_of_inIsr inside)

/-! ## The steps that are no micro-op -/

theorem enterInterrupt_keeps_canonicalInv {s : State} (h : s.CanonicalInv) (enabled : entryEnabled s = true) :
    (enterInterrupt s).CanonicalInv := by
  obtain ⟨-, pend, irqEn, -⟩ := entryEnabled_iff.mp enabled
  exact { h with
    inv := enterInterrupt_keeps_inv h.inv enabled
    isr_pc := (by decide : 32 ≤ (32 : Addr).toNat ∧ (32 : Addr).toNat ≤ 37)
    boot := fun early => by
      obtain ⟨masked, -⟩ := h.boot early
      exact absurd irqEn (ne_true_of_eq_false masked)
    handler_owns := fun _ inner => absurd rfl inner
    edge_kept := fun _ _ => pend
    edge_cleared := fun _ late => absurd late (by decide : ¬36 ≤ (32 : Addr).toNat) }

/-- The button latches nothing while the handler runs (43_enable_source.md R183). -/
theorem setButton_keeps_canonicalInv {s : State} (h : s.CanonicalInv) (level : Bool) :
    (setButton level s).CanonicalInv := by
  have pend_of_inIsr (inside : s.inIsr = true) : (setButton level s).pend = s.pend := by simp [edgeLatches, inside]
  exact { h with
    inv := setButton_keeps_inv h.inv level
    edge_kept := fun inside early => (pend_of_inIsr inside).trans (h.edge_kept inside early)
    edge_cleared := fun inside late => (pend_of_inIsr inside).trans (h.edge_cleared inside late) }

/-! ## The micro-ops -/

/-- A foreground micro-op of the canonical program: INIT, PUT and UNMASK advance through the boot, and the others stay past
it and leave the handler's fields alone. -/
theorem fg_microOp_keeps_canonicalInv {s t : State} {i : Instr} (h : s.CanonicalInv) (alive : s.fatal = .noFatal)
    (place : ForegroundAt s.fgPc i) (effect : MicroOpEffect s i t) (inv : t.Inv) : t.CanonicalInv := by
  have bounds := place.fgPc_bounds effect
  cases effect with
  | init_succeeds =>
    cases place with | init pc =>
    exact { h with
      inv
      fg_pc := by simp [pc]
      fatal := .inl alive
      boot := fun _ => h.boot (by simp [pc])
      put_done := fun _ late => absurd late (by simp [pc]) }
  | init_fails =>
    cases place with | init pc =>
    exact { h with
      inv
      fatal := .inr ⟨rfl, pc⟩ }
  | put =>
    cases place with | put pc =>
    exact { h with
      inv
      fg_pc := by simp [pc]
      fatal := .inl alive
      boot := fun _ => h.boot (by simp [pc])
      put_done := fun toggle _ => .inl (by simp [Config.isToggle, show s.cfg.variant = .toggle from toggle]) }
  | unmask =>
    cases place with | unmask pc =>
    exact { h with
      inv
      fg_pc := by simp [pc]
      fatal := .inl alive
      boot := fun early => absurd early (by simp [pc])
      put_done := fun toggle _ => h.put_done toggle (by simp [pc]) }
  | poll_running | poll_paused | setind | passinit | wra | wrb | inc | waits_issue | waits_complete | passnext_again
  | passnext_last | diag_reports | diag_silent | za | zb | gap_issue | gap_complete | jmp =>
    have past := place.past_boot nofun nofun nofun
    obtain ⟨low, high⟩ := bounds past
    exact { h with
      inv
      fg_pc := high
      fatal := .inl alive
      boot := fun early => absurd (low.trans early) (by decide)
      put_done := fun toggle _ => h.put_done toggle (Nat.le_of_succ_le past) }
  | take_owned | take_slot | take_empty | test_pending | test_clear | toggle | clear | debounce_issue
  | debounce_complete | reti => cases place

/-- A handler micro-op of the canonical program: TAKE finds the resource, TEST finds the edge, CLEAR drops it, and RETI ends
the invocation. -/
theorem isr_microOp_keeps_canonicalInv {s t : State} {i : Instr} (h : s.CanonicalInv) (inside : s.inIsr = true)
    (place : HandlerAt s.isrPc i) (effect : MicroOpEffect s i t) (inv : t.Inv) : t.CanonicalInv := by
  have booted := h.booted_of_inIsr inside
  have resource := h.slot_or_owned inside
  cases place with
  | take pc =>
    have pend := h.edge_kept inside (by simp [pc])
    cases effect with
    | take_owned owned =>
      exact { h with
        inv
        isr_pc := by simp [pc]
        handler_owns := fun _ _ => owned
        edge_kept := fun _ _ => pend
        edge_cleared := fun _ late => absurd late (by simp [pc]) }
    | take_slot =>
      exact { h with
        inv
        isr_pc := by simp [pc]
        put_done := fun _ _ => .inr rfl
        handler_owns := fun _ _ => rfl
        edge_kept := fun _ _ => pend
        edge_cleared := fun _ late => absurd late (by simp [pc]) }
    | take_empty notOwned noSlot => simp [notOwned, noSlot] at resource
  | test pc =>
    have owned := h.handler_owns inside (by simp [pc])
    have pend := h.edge_kept inside (by simp [pc])
    cases effect with
    | test_pending =>
      exact { h with
        inv
        isr_pc := by simp [pc]
        handler_owns := fun _ _ => owned
        edge_kept := fun _ _ => pend
        edge_cleared := fun _ late => absurd late (by simp [pc]) }
    | test_clear noEdge => exact absurd pend (ne_true_of_eq_false noEdge)
  | toggle pc =>
    have owned := h.handler_owns inside (by simp [pc])
    have pend := h.edge_kept inside (by simp [pc])
    cases effect
    exact { h with
      inv
      isr_pc := by simp [pc]
      handler_owns := fun _ _ => owned
      edge_kept := fun _ _ => pend
      edge_cleared := fun _ late => absurd late (by simp [pc]) }
  | clear pc =>
    have owned := h.handler_owns inside (by simp [pc])
    cases effect
    exact { h with
      inv
      isr_pc := by simp [pc]
      handler_owns := fun _ _ => owned
      edge_kept := fun _ early => absurd early (by simp [pc])
      edge_cleared := fun _ _ => rfl }
  | debounce pc =>
    have owned := h.handler_owns inside (by simp [pc])
    have cleared := h.edge_cleared inside (by simp [pc])
    cases effect with
    | debounce_issue => exact { h with inv }
    | debounce_complete =>
      exact { h with
        inv
        isr_pc := by simp [pc]
        handler_owns := fun _ _ => owned
        edge_kept := fun _ early => absurd early (by simp [pc])
        edge_cleared := fun _ _ => cleared }
  | reti =>
    cases effect
    exact { h with
      inv
      boot := fun early => absurd early (Nat.not_le_of_lt booted)
      handler_owns := nofun
      edge_kept := nofun
      edge_cleared := nofun }

/-! ## Every step -/

theorem microOp_keeps_canonicalInv {s t : State} {i : Instr} (h : s.CanonicalInv)
    (enabled : contextEnabled i.context s = true) (fetched : decode i.context (fetchWord i.context s) = .ok i)
    (effect : MicroOpEffect s i t) : t.CanonicalInv := by
  have inv := microOp_keeps_inv h.inv enabled fetched effect
  cases hctx : i.context with
  | fg =>
    rw [hctx] at fetched enabled
    obtain ⟨alive, -⟩ := fgEnabled_iff.mp enabled
    exact fg_microOp_keeps_canonicalInv h alive (h.foregroundAt fetched) effect inv
  | isr =>
    rw [hctx] at fetched enabled
    obtain ⟨-, inside, -⟩ := isrEnabled_iff.mp enabled
    exact isr_microOp_keeps_canonicalInv h inside (h.handlerAt fetched) effect inv

theorem stepEffect_keeps_canonicalInv {s t : State} (h : s.CanonicalInv) (effect : StepEffect s t) :
    t.CanonicalInv := by
  have inv := stepEffect_keeps_inv h.inv effect
  cases effect with
  | entry enabled => exact enterInterrupt_keeps_canonicalInv h enabled
  | microOp enabled fetched effect => exact microOp_keeps_canonicalInv h enabled fetched effect
  | illegal _ fetched => exact absurd fetched (h.decode_ne_error _ _)
  | button level => exact setButton_keeps_canonicalInv h level
  | tick | startup | hostRead | hostWrite => exact { h with inv }

/-- A reset on the canonical ROM is a power-up but for what ENV, HOST and the logs keep. -/
theorem applyReset_of_canonicalRom {s : State} (rom : s.rom = []) (level : Bool) : applyReset level s =
    State.initial s.cfg [] level s.startupOk (s.outLog ++ [.reset s.time]) s.diagLog s.hostLog s.schedule := by
  rw [applyReset, rom]

theorem applyReset_canonicalInv {s : State} (h : s.CanonicalInv) (level : Bool) :
    (applyReset level s).CanonicalInv := by
  rw [applyReset_of_canonicalRom h.rom]
  exact initial_canonicalInv h.inv.cfg_wf ..

/-- The invariants do not mention the schedule. -/
theorem State.CanonicalInv.with_schedule {s : State} (h : s.CanonicalInv) (rest : List Move) :
    State.CanonicalInv { s with schedule := rest } :=
  { h with inv := { h.inv with } }

theorem step_keeps_canonicalInv {s t : State} (h : s.CanonicalInv) (hstep : step s = .next t) : t.CanonicalInv := by
  obtain ⟨rest, ⟨level, -, rfl⟩ | effect⟩ := stepEffect_of_step hstep
  · exact applyReset_canonicalInv (h.with_schedule rest) level
  · exact stepEffect_keeps_canonicalInv (h.with_schedule rest) effect

end Sys2Proof.Machine
end

section
/-! PROOFS. 41_streamer.md R133, R134, R136: index, pass counter and channel pair at every address of the streamer. -/

namespace Sys2Proof.Machine

/-- The streamer's invariant, one constructor for each stretch of MP_FG: what holds of the configuration, FG_PC, IDX,
PASS_REM, CHA and CHB there. -/
inductive StreamPosition (cfg : Config) (pc : Addr) (idx passRem : Nat) (a b : Duty) : Prop where
  | between_passes (place : pc.toNat ≤ 5 ∨ 11 ≤ pc.toNat) (whole : pc ≠ 15) (start : idx = 0) (pair : IsPair cfg a b)
  | zeroing (place : pc = 15) (start : idx = 0) (zero : a = 0)
  | before_wra (place : pc = 6) (more : 1 ≤ passRem) (count : idx + passRem = cfg.n) (pair : IsPair cfg a b)
  | before_wrb (place : pc = 7) (more : 1 ≤ passRem) (count : idx + passRem = cfg.n)
      (main : ∃ comp, tableEntry cfg idx = some (a, comp))
  | before_inc (place : pc = 8) (more : 1 ≤ passRem) (count : idx + passRem = cfg.n)
      (entry : tableEntry cfg idx = some (a, b))
  | after_inc (place : pc = 9 ∨ pc = 10) (more : 1 ≤ passRem) (count : idx = (cfg.n + 1 - passRem) % cfg.n)
      (pair : IsPair cfg a b)

/-- The streamer's position of a state. -/
abbrev State.Positioned (s : State) : Prop := StreamPosition s.cfg s.fgPc s.idx s.passRem s.chA s.chB

theorem isPair_of_entry {cfg : Config} {i : Nat} {a b : Duty} (h : tableEntry cfg i = some (a, b)) : IsPair cfg a b :=
  .inr ⟨i, h⟩

theorem State.StreamInv.positioned {s : State} (h : s.StreamInv) : s.Positioned := by
  by_cases h6 : s.fgPc = 6
  · obtain ⟨more, count⟩ := h.before_inc (by simp [h6])
    exact .before_wra h6 more count (h.paired (by simp [h6]) (by simp [h6]))
  by_cases h7 : s.fgPc = 7
  · obtain ⟨more, count⟩ := h.before_inc (by simp [h7])
    exact .before_wrb h7 more count (h.torn_main h7)
  by_cases h8 : s.fgPc = 8
  · obtain ⟨more, count⟩ := h.before_inc (by simp [h8])
    exact .before_inc h8 more count (h.fresh_pair h8)
  by_cases h9 : s.fgPc = 9 ∨ s.fgPc = 10
  · obtain ⟨more, count⟩ := h.after_inc (by bv_omega)
    exact .after_inc h9 more count (h.paired h7 (by bv_omega))
  have place : s.fgPc.toNat ≤ 5 ∨ 11 ≤ s.fgPc.toNat := by bv_omega
  by_cases h15 : s.fgPc = 15
  · exact .zeroing h15 (h.between_passes place) (h.torn_zero h15)
  · exact .between_passes place h15 (h.between_passes place) (h.paired h7 h15)

theorem streamInv_of_positioned {s : State} (canonical : s.CanonicalInv) (h : s.Positioned) : s.StreamInv := by
  cases h with
  | between_passes place whole start pair =>
    exact {
      canonical
      between_passes := fun _ => start
      before_inc := by omega
      after_inc := by omega
      paired := fun _ _ => pair
      fresh_pair := by bv_omega
      torn_main := by bv_omega
      torn_zero := (absurd · whole) }
  | zeroing place start zero =>
    exact {
      canonical
      between_passes := fun _ => start
      before_inc := by simp [place]
      after_inc := by simp [place]
      paired := fun _ whole => absurd place whole
      fresh_pair := by simp [place]
      torn_main := by simp [place]
      torn_zero := fun _ => zero }
  | before_wra place more count pair =>
    exact {
      canonical
      between_passes := by simp [place]
      before_inc := fun _ => ⟨more, count⟩
      after_inc := by simp [place]
      paired := fun _ _ => pair
      fresh_pair := by simp [place]
      torn_main := by simp [place]
      torn_zero := by simp [place] }
  | before_wrb place more count main =>
    exact {
      canonical
      between_passes := by simp [place]
      before_inc := fun _ => ⟨more, count⟩
      after_inc := by simp [place]
      paired := fun whole _ => absurd place whole
      fresh_pair := by simp [place]
      torn_main := fun _ => main
      torn_zero := by simp [place] }
  | before_inc place more count entry =>
    exact {
      canonical
      between_passes := by simp [place]
      before_inc := fun _ => ⟨more, count⟩
      after_inc := by simp [place]
      paired := fun _ _ => isPair_of_entry entry
      fresh_pair := fun _ => entry
      torn_main := by simp [place]
      torn_zero := by simp [place] }
  | after_inc place more count pair =>
    exact {
      canonical
      between_passes := by bv_omega
      before_inc := by bv_omega
      after_inc := fun _ => ⟨more, count⟩
      paired := fun _ _ => pair
      fresh_pair := by bv_omega
      torn_main := by bv_omega
      torn_zero := by bv_omega }

/-! ## The micro-ops -/

/-- Outside a pass a micro-op that writes no channel leads to another place outside a pass. -/
theorem positioned_between_passes {s : State} (h : s.StreamInv) {pc pc' : Addr} (here : s.fgPc = pc)
    (outside : pc.toNat ≤ 5 ∨ 11 ≤ pc.toNat) (whole : pc ≠ 15) (outside' : pc'.toNat ≤ 5 ∨ 11 ≤ pc'.toNat)
    (whole' : pc' ≠ 15) : StreamPosition s.cfg pc' s.idx s.passRem s.chA s.chB := by
  subst here
  exact .between_passes outside' whole' (h.between_passes outside) (h.paired (by bv_omega) whole)

theorem fg_microOp_keeps_positioned {s t : State} {i : Instr} (h : s.StreamInv) (place : ForegroundAt s.fgPc i)
    (effect : MicroOpEffect s i t) : t.Positioned := by
  have samples := h.canonical.inv.idx_lt
  have pass_le := h.canonical.inv.pass_le
  cases place with
  | init pc | put pc | unmask pc | poll pc | setind_running pc | diag_running pc | jmp_gap pc | setind_paused pc
  | diag_paused pc | gap pc | jmp_poll pc =>
    cases effect <;> exact positioned_between_passes h pc (by decide) (by decide) (by simp [pc]) (by simp [pc])
  | passinit pc =>
    cases effect
    have start := h.between_passes (by simp [pc])
    exact .before_wra (by simp [pc]) (Nat.one_le_of_lt samples) (by simp [start]) (h.paired (by simp [pc]) (by simp [pc]))
  | wra pc =>
    obtain ⟨more, count⟩ := h.before_inc (by simp [pc])
    cases effect with
    | wra entry => exact .before_wrb (by simp [pc]) more count ⟨_, entry⟩
  | wrb pc =>
    obtain ⟨more, count⟩ := h.before_inc (by simp [pc])
    obtain ⟨comp, torn⟩ := h.torn_main pc
    cases effect with
    | wrb entry =>
      obtain ⟨-, rfl⟩ := Prod.ext_iff.mp (Option.some.inj (torn.symm.trans entry))
      exact .before_inc (by simp [pc]) more count torn
  | inc pc =>
    obtain ⟨more, count⟩ := h.before_inc (by simp [pc])
    have pair := isPair_of_entry (h.fresh_pair pc)
    have next : s.idx + 1 = s.cfg.n + 1 - s.passRem := by omega
    cases effect
    exact .after_inc (by simp [pc]) more (congrArg (· % s.cfg.n) next) pair
  | waits pc =>
    obtain ⟨more, count⟩ := h.after_inc (by simp [pc])
    have pair := h.paired (by simp [pc]) (by simp [pc])
    cases effect with
    | waits_issue => exact .after_inc (.inl pc) more count pair
    | waits_complete => exact .after_inc (.inr (by simp [pc])) more count pair
  | passnext pc =>
    obtain ⟨more, count⟩ := h.after_inc (by simp [pc])
    have pair := h.paired (by simp [pc]) (by simp [pc])
    cases effect with
    | passnext_again again =>
      rw [Nat.mod_eq_of_lt (by omega)] at count
      exact .before_wra rfl (Nat.le_sub_one_of_lt again) (by simp only; omega) pair
    | passnext_last last =>
      have single : s.passRem = 1 := Nat.le_antisymm last more
      exact .between_passes (by simp [pc]) (by simp [pc]) (by simp [count, single]) pair
  | za pc =>
    have start := h.between_passes (by simp [pc])
    cases effect
    exact .zeroing (by simp [pc]) start rfl
  | zb pc =>
    have start := h.between_passes (by simp [pc])
    have zero := h.torn_zero pc
    cases effect
    exact .between_passes (by simp [pc]) (by simp [pc]) start (.inl ⟨zero, rfl⟩)

/-- The handler leaves the foreground's fields alone (43_enable_source.md R181). -/
theorem isr_microOp_keeps_positioned {s t : State} {i : Instr} (h : s.Positioned) (place : HandlerAt s.isrPc i)
    (effect : MicroOpEffect s i t) : t.Positioned := by
  cases place <;> cases effect <;> exact h

/-! ## Every step -/

theorem microOp_keeps_positioned {s t : State} {i : Instr} (h : s.StreamInv)
    (fetched : decode i.context (fetchWord i.context s) = .ok i) (effect : MicroOpEffect s i t) : t.Positioned := by
  cases hctx : i.context with
  | fg =>
    rw [hctx] at fetched
    exact fg_microOp_keeps_positioned h (h.canonical.foregroundAt fetched) effect
  | isr =>
    rw [hctx] at fetched
    exact isr_microOp_keeps_positioned h.positioned (h.canonical.handlerAt fetched) effect

theorem applyReset_streamInv {s : State} (h : s.CanonicalInv) (level : Bool) : (applyReset level s).StreamInv := by
  rw [applyReset_of_canonicalRom h.rom]
  exact initial_streamInv h.inv.cfg_wf ..

theorem stepEffect_keeps_streamInv {s t : State} (h : s.StreamInv) (effect : StepEffect s t) : t.StreamInv := by
  refine streamInv_of_positioned (stepEffect_keeps_canonicalInv h.canonical effect) ?_
  cases effect with
  | microOp _ fetched effect => exact microOp_keeps_positioned h fetched effect
  | _ => exact h.positioned

/-- Settles O42: a reset gives a power-up state, and every other step is `stepEffect_keeps_streamInv`, by the micro-op at
each address. -/
theorem stepKeepsTheStreamInvariant : Obligations.StepKeepsTheStreamInvariant := by
  unfold Obligations.StepKeepsTheStreamInvariant
  intro s t h hstep
  obtain ⟨rest, ⟨level, -, rfl⟩ | effect⟩ := stepEffect_of_step hstep
  · exact applyReset_streamInv (h.canonical.with_schedule rest) level
  · exact stepEffect_keeps_streamInv { h with canonical := h.canonical.with_schedule rest } effect

/-! ## Reachable states -/

/-- Every state of a run of the canonical programs meets the streamer's invariant, in the run's own configuration. -/
theorem reachable_streamInv {cfg : Config} {t : State} (hcfg : cfg.wf = true) (reachable : Reachable cfg [] t) :
    t.StreamInv ∧ t.cfg = cfg := by
  obtain ⟨btn, ok, schedule, run⟩ := reachable
  refine reaches_keeps (P := fun u => u.StreamInv ∧ u.cfg = cfg) ?_ ⟨initial_streamInv hcfg .., rfl⟩ run
  rintro u v ⟨inv, sameCfg⟩ hstep
  exact ⟨stepKeepsTheStreamInvariant u v inv hstep, (step_keeps_parameters hstep).1.trans sameCfg⟩

/-- Settles O46: POLL is outside a pass. -/
theorem indexIsZeroAtPoll : Obligations.IndexIsZeroAtPoll := by
  unfold Obligations.IndexIsZeroAtPoll
  intro cfg t hcfg reachable atPoll
  obtain ⟨inv, -⟩ := reachable_streamInv hcfg reachable
  exact inv.between_passes (by simp [atPoll])

/-- Settles O47: the pairing clauses of the streamer's invariant. -/
theorem observablePairsAreTableEntries : Obligations.ObservablePairsAreTableEntries := by
  unfold Obligations.ObservablePairsAreTableEntries
  intro cfg t hcfg reachable
  obtain ⟨inv, rfl⟩ := reachable_streamInv hcfg reachable
  exact ⟨inv.paired, inv.fresh_pair, inv.torn_main, inv.torn_zero⟩

end Sys2Proof.Machine
end

section
/-! PROOFS. 41_streamer.md R122 to R130, 42_control.md R159: the sample interval and the streamer's micro-ops. -/

namespace Sys2Proof

/-- Settles O2: the bounds of a floor division by a divisor between 1 and 1000000. -/
theorem sampleIntervalIsTheFloorOfThePeriod : Obligations.SampleIntervalIsTheFloorOfThePeriod := by
  unfold Obligations.SampleIntervalIsTheFloorOfThePeriod
  intro cfg hcfg
  obtain ⟨⟨samples, -⟩, ⟨frequency, -⟩, -, -, rate, -⟩ := config_wf_cases hcfg
  have positive : 0 < cfg.fHz * cfg.n := Nat.mul_pos frequency samples
  refine ⟨Nat.div_pos rate positive, Nat.div_mul_le_self .., ?_⟩
  rw [Nat.mul_comm]
  exact Nat.lt_mul_div_succ 1000000 positive

/-- A word as the sum of its fields, as the tables of 30_encoding.md write the form-T words. -/
theorem wordOf_eq_or (op : BitVec 5) (a : BitVec 11) : wordOf op a = op.setWidth 16 <<< 11 ||| a.setWidth 16 :=
  (BitVec.setWidth_eq _).symm.trans BitVec.setWidth_append_eq_shiftLeft_setWidth_or

theorem decode_passnext_word (target : Addr) : decode .fg (0x5800 ||| target.setWidth 16) = .ok (.passnext target) := by
  have word : (0x5800 ||| target.setWidth 16 : Word) = encode (.passnext target) := (wordOf_eq_or 0x0B target).symm
  rw [word, decode_encode]
  rfl

namespace Machine

/-! ## Counters -/

theorem exec_passnext_again {s : State} (target : Addr) (more : 2 ≤ s.passRem) :
    exec (.passnext target) s = .next { s with passRem := s.passRem - 1, fgPc := target } := by
  have left : s.passRem - 1 ≠ 0 := by omega
  simp only [exec, execPassnext, satsub_eq_sub, if_neg left]
  rfl

theorem exec_passnext_last {s : State} (target : Addr) (last : s.passRem ≤ 1) :
    exec (.passnext target) s = .next { s with passRem := 0, fgPc := s.fgPc + 1 } := by
  have none : s.passRem - 1 = 0 := by omega
  simp only [exec, execPassnext, satsub_eq_sub, none, if_true]
  rfl

theorem exec_inc (s : State) : exec .inc s = .next { s with idx := (s.idx + 1) % s.cfg.n, fgPc := s.fgPc + 1 } := rfl

/-- Settles O21: INC by the two cases of its wrap, PASSNEXT by `exec_passnext_again` and `exec_passnext_last`. -/
theorem passCountersCountAndWrap : Obligations.PassCountersCountAndWrap := by
  unfold Obligations.PassCountersCountAndWrap
  intro s target
  refine ⟨⟨rfl, rfl, decode_passnext_word target⟩, rfl, fun below => ?_, fun wraps => ?_, fun r hr => ?_,
    exec_passnext_last target⟩
  · rw [exec_inc, Nat.mod_eq_of_lt below]
  · rw [exec_inc, wraps, Nat.mod_self]
  · rw [exec_passnext_again target (by omega), hr]
    rfl

/-! ## Channel writes -/

theorem exec_wra {s : State} {main comp : Duty} (entry : tableEntry s.cfg s.idx = some (main, comp)) :
    exec .wra s = .next { s with chA := main, outLog := s.outLog ++ [.chA s.time main], fgPc := s.fgPc + 1 } := by
  rw [exec, execWra, entry]
  rfl

theorem exec_wrb {s : State} {main comp : Duty} (entry : tableEntry s.cfg s.idx = some (main, comp)) :
    exec .wrb s = .next { s with chB := comp, outLog := s.outLog ++ [.chB s.time comp], fgPc := s.fgPc + 1 } := by
  rw [exec, execWrb, entry]
  rfl

/-- Settles O22: below N there is an entry, which WRA and WRB write; ZA and ZB read nothing. -/
theorem channelWritesAreLogged : Obligations.ChannelWritesAreLogged := by
  unfold Obligations.ChannelWritesAreLogged
  refine ⟨⟨rfl, rfl, rfl, rfl⟩, fun s => ⟨fun inRange => ?_, rfl, rfl⟩⟩
  have entry := tableEntry_of_lt inRange
  exact ⟨_, _, entry, exec_wra entry, exec_wrb entry⟩

/-! ## Waits -/

theorem waitForeground_issue (us : Nat) {s : State} (idle : s.fgWaitActive = false) :
    waitForeground us s = .next { s with fgWaitActive := true, fgWaitRem := us } := if_pos idle

theorem waitForeground_complete (us : Nat) {s : State} (active : s.fgWaitActive = true) (elapsed : s.fgWaitRem = 0) :
    waitForeground us s = .next { s with fgWaitActive := false, fgPc := s.fgPc + 1 } := by
  rw [waitForeground, if_neg (ne_false_of_eq_true active), if_pos elapsed]
  rfl

theorem fgEnabled_of_running {s : State} (active : s.fgWaitActive = true) (running : 0 < s.fgWaitRem) :
    fgEnabled s = false :=
  Bool.eq_false_of_not_eq_true fun enabled => by
    obtain ⟨-, -, -, free⟩ := fgEnabled_iff.mp enabled
    exact free ⟨active, running⟩

/-- A tick counts the foreground wait down but in the handler under Executed (41_streamer.md R135). -/
theorem fgWaitCounts_iff {s : State} : fgWaitCounts s = true ↔
    s.fatal = .noFatal ∧ s.fgWaitActive = true ∧ 0 < s.fgWaitRem ∧ (s.cfg.waitMode = .elapsed ∨ s.inIsr = false) := by
  simp [fgWaitCounts, and_assoc]

/-- Settles O23: WAITS and GAP are `waitForeground`, and the countdown is `fgWaitCounts_iff`. -/
theorem foregroundWaitsIssueAndComplete : Obligations.ForegroundWaitsIssueAndComplete := by
  unfold Obligations.ForegroundWaitsIssueAndComplete
  refine ⟨⟨rfl, rfl⟩, fun s => ⟨fun idle => ?_, fun active elapsed => ?_, fgEnabled_of_running,
    fun active running alive => ⟨fun counts => ?_, fun executed inside => ?_⟩⟩⟩
  · exact ⟨waitForeground_issue _ idle, waitForeground_issue _ idle⟩
  · exact ⟨waitForeground_complete _ active elapsed, waitForeground_complete _ active elapsed⟩
  · rw [tick_fgWaitRem, if_pos (fgWaitCounts_iff.mpr ⟨alive, active, running, counts⟩)]
  · have held : ¬fgWaitCounts s = true := by simp [fgWaitCounts, executed, inside]
    rw [tick_fgWaitRem, if_neg held]

end Machine

end Sys2Proof
end

section
/-! PROOFS. 41_streamer.md R131 to R137, 42_control.md R156: an undisturbed Running iteration, from POLL back to POLL. -/

namespace Sys2Proof.Machine

/-! ## The control loop's micro-ops -/

theorem exec_poll_running {s : State} (target : Addr) (en : s.en = true) :
    exec (.poll target) s = .next { s with fgPc := s.fgPc + 1 } := by
  rw [exec, execPoll, if_pos en]
  rfl

theorem exec_setind (v : Bool) (s : State) : exec (.setind v) s =
    .next { s with ind := v, outLog := s.outLog ++ [.ind s.time v], fgPc := s.fgPc + 1 } := rfl

theorem exec_passinit (s : State) :
    exec .passinit s = .next { s with passRem := s.cfg.n, fgPc := s.fgPc + 1 } := rfl

theorem exec_diag (v : Bool) (s : State) : exec (.diag v) s =
    .next { s with
      last := v
      diagLog := if s.last ≠ v ∧ s.cfg.verbose = .on then s.diagLog ++ [⟨s.time, v⟩] else s.diagLog
      fgPc := s.fgPc + 1 } := by
  rw [exec, execDiag]
  split <;> rfl

theorem exec_jmp (target : Addr) (s : State) : exec (.jmp target) s = .next { s with fgPc := target } := rfl

/-! ## Steps of an undisturbed block -/

theorem State.Undisturbed.admitted {s : State} (h : s.Undisturbed) : s.Admitted :=
  ⟨h.cfg_wf, by rw [h.rom]; exact letsTimePass_canonical⟩

theorem State.Undisturbed.not_pending {s : State} (h : s.Undisturbed) : ¬(s.pend = true ∧ s.irqEn = true) := by
  rintro ⟨pend, irqEn⟩
  obtain masked | masked := h.no_entry
  · exact absurd pend (ne_true_of_eq_false masked)
  · exact absurd irqEn (ne_true_of_eq_false masked)

/-- Where the foreground is enabled and nothing is scheduled, the step is the micro-op placed at FG_PC. -/
theorem step_of_foregroundAt {s : State} {i : Instr} (hadm : s.Admitted) (schedule : s.schedule = [])
    (rom : s.rom = []) (enabled : fgEnabled s = true) (place : ForegroundAt s.fgPc i) : step s = exec i s := by
  have same : { s with schedule := [] } = s := by rw [← schedule]
  have run := step_of_sequencer (ctx := .fg) hadm (.inr ⟨schedule, rfl⟩) enabled
  rw [run, same, sequencerStep_of_ok (place.fetched rom)]

/-- The next micro-op of an undisturbed block, in front of the rest of its run. -/
theorem State.Undisturbed.reaches_microOp {s t u : State} {i : Instr} (h : s.Undisturbed)
    (place : ForegroundAt s.fgPc i) (run : exec i s = .next t) (rest : Reaches t u) : Reaches s u := by
  have enabled : fgEnabled s = true :=
    fgEnabled_iff.mpr ⟨h.fatal, h.no_handler, h.not_pending, by simp [h.no_wait]⟩
  have next := (step_of_foregroundAt h.admitted h.schedule h.rom enabled place).trans run
  exact reaches_trans (reaches_step next) rest

/-! ## A whole wait -/

/-- The state in a foreground wait of which `left` µs remain at time `now`. -/
def State.waiting (s : State) (left now : Nat) : State :=
  { s with fgWaitActive := true, fgWaitRem := left, time := now }

/-- While the wait runs nothing but a tick is enabled, and the tick counts the wait down. -/
theorem State.Undisturbed.step_waiting {s : State} (h : s.Undisturbed) (left now : Nat) :
    step (s.waiting (left + 1) now) = .next (s.waiting left (now + 1)) := by
  have quiet : blockEnabled (s.waiting (left + 1) now) = false := by
    have fg : fgEnabled (s.waiting (left + 1) now) = false := fgEnabled_of_running rfl (Nat.succ_pos _)
    have isr : isrEnabled (s.waiting (left + 1) now) = false := by simp [isrEnabled, State.waiting, h.no_handler]
    have entry : entryEnabled (s.waiting (left + 1) now) = false :=
      Bool.eq_false_of_not_eq_true fun enabled => by
        obtain ⟨-, pend, irqEn, -⟩ := entryEnabled_iff.mp enabled
        exact h.not_pending ⟨pend, irqEn⟩
    rw [blockEnabled, entry, isr, fg]
    rfl
  have counted : tick (s.waiting (left + 1) now) = s.waiting left (now + 1) := by
    simp [tick, fgWaitCounts, debWaitCounts, State.waiting, h.fatal, h.no_handler, h.no_debounce]
  rw [step_of_quiet (s := s.waiting (left + 1) now) h.admitted h.schedule quiet, counted]

theorem State.Undisturbed.reaches_wait_elapsed {s : State} (h : s.Undisturbed) (left now : Nat) :
    Reaches (s.waiting left now) (s.waiting 0 (now + left)) := by
  induction left generalizing now with
  | zero => exact reaches_refl _
  | succ left ih =>
    have shift : now + (left + 1) = now + 1 + left := by omega
    rw [shift]
    exact reaches_trans (reaches_step (h.step_waiting left now)) (ih (now + 1))

/-- A foreground wait of an undisturbed block, issue, countdown and completion, in front of the rest of its run
(41_streamer.md R127). -/
theorem State.Undisturbed.reaches_wait {s u : State} {i : Instr} {us : Nat} (h : s.Undisturbed)
    (place : ForegroundAt s.fgPc i) (wait : ∀ v : State, v.cfg = s.cfg → exec i v = waitForeground us v)
    (rest : Reaches { s with time := s.time + us, fgPc := s.fgPc + 1 } u) : Reaches s u := by
  have issue : exec i s = .next (s.waiting us s.time) := (wait s rfl).trans (waitForeground_issue us h.no_wait)
  have complete : step (s.waiting 0 (s.time + us)) = .next { s with time := s.time + us, fgPc := s.fgPc + 1 } := by
    have enabled : fgEnabled (s.waiting 0 (s.time + us)) = true :=
      fgEnabled_iff.mpr ⟨h.fatal, h.no_handler, h.not_pending, fun ⟨_, running⟩ => absurd running (Nat.lt_irrefl 0)⟩
    rw [step_of_foregroundAt (s := s.waiting 0 (s.time + us)) h.admitted h.schedule h.rom enabled place,
      wait (s.waiting 0 (s.time + us)) rfl, waitForeground_complete us rfl rfl]
    simp [State.waiting, h.no_wait, h.no_rem]
  refine h.reaches_microOp place issue ?_
  exact reaches_trans (h.reaches_wait_elapsed us s.time) (reaches_trans (reaches_step complete) rest)

/-! ## A whole pass -/

/-- One advance of a pass, from WRA to the end of WAITS: a table entry on both channels, and SAMPLE_US later
(41_streamer.md R131). -/
theorem State.Undisturbed.reaches_advance {s u : State} {main comp : Duty} (h : s.Undisturbed) (pc : s.fgPc = 6)
    (entry : tableEntry s.cfg s.idx = some (main, comp))
    (rest : Reaches
      { s with
        fgPc := 10, idx := (s.idx + 1) % s.cfg.n, chA := main, chB := comp
        time := s.time + s.cfg.sampleUs
        outLog := s.outLog ++ [.chA s.time main, .chB s.time comp] } u) : Reaches s u := by
  refine h.reaches_microOp (.wra pc) (exec_wra entry) ?_
  refine State.Undisturbed.reaches_microOp { h with } (.wrb (by simp [pc])) (exec_wrb entry) ?_
  refine State.Undisturbed.reaches_microOp { h with } (.inc (by simp [pc])) (exec_inc _) ?_
  refine State.Undisturbed.reaches_wait { h with } (.waits (by simp [pc])) (us := s.cfg.sampleUs)
    (fun v hv => by rw [exec, execWaits, hv]) ?_
  simpa [pc] using rest

theorem advanceEntries_of_entry {cfg : Config} {k : Nat} {main comp : Duty} (t : Nat)
    (entry : tableEntry cfg k = some (main, comp)) :
    advanceEntries cfg t k = [.chA (t + k * cfg.sampleUs) main, .chB (t + k * cfg.sampleUs) comp] := by
  rw [advanceEntries, entry]

/-- The advances that a pass begun at time `t` still has to make, `left + 1` of them, and its end behind PASSNEXT
(41_streamer.md R133, R137). -/
theorem State.Undisturbed.reaches_pass_end {s u : State} {left t : Nat} {main comp : Duty} (h : s.Undisturbed)
    (pc : s.fgPc = 6) (rem : s.passRem = left + 1) (count : s.idx + s.passRem = s.cfg.n)
    (now : s.time = t + s.idx * s.cfg.sampleUs) (last : tableEntry s.cfg (s.cfg.n - 1) = some (main, comp))
    (rest : Reaches
      { s with
        fgPc := 11, idx := 0, passRem := 0, chA := main, chB := comp
        time := t + s.cfg.n * s.cfg.sampleUs
        outLog := s.outLog ++ (List.range' s.idx (left + 1)).flatMap (advanceEntries s.cfg t) } u) : Reaches s u := by
  induction left generalizing s with
  | zero =>
    have here : s.idx = s.cfg.n - 1 := by omega
    have entry := here ▸ last
    have wrap : (s.idx + 1) % s.cfg.n = 0 := by rw [here, Nat.sub_add_cancel (by omega), Nat.mod_self]
    have ends : t + s.cfg.n * s.cfg.sampleUs = s.time + s.cfg.sampleUs := by
      rw [now, Nat.add_assoc, ← Nat.succ_mul, here, Nat.succ_eq_add_one, Nat.sub_add_cancel (by omega)]
    refine h.reaches_advance pc entry ?_
    refine State.Undisturbed.reaches_microOp { h with } (.passnext rfl) (exec_passnext_last 6 (by simp [rem])) ?_
    simpa [wrap, ends, advanceEntries_of_entry t entry, ← now] using rest
  | succ left ih =>
    have next : s.idx + 1 < s.cfg.n := by omega
    have entry := tableEntry_of_lt (Nat.lt_of_succ_lt next)
    refine h.reaches_advance pc entry ?_
    refine State.Undisturbed.reaches_microOp { h with } (.passnext rfl) (exec_passnext_again 6 (by simp [rem])) ?_
    rw [Nat.mod_eq_of_lt next]
    refine ih { h with } rfl (by simp [rem]) (by simp only; omega) (by simp only; rw [now]; ring) last ?_
    simpa [List.range'_succ (n := left + 1), advanceEntries_of_entry t entry, ← now] using rest

/-! ## A whole iteration -/

/-- Settles O51: POLL, SETIND and PASSINIT at the start, the whole pass, and DIAG, JMP and the gap back to POLL. -/
theorem runningIterationStreamsTheTable : Obligations.RunningIterationStreamsTheTable := by
  unfold Obligations.RunningIterationStreamsTheTable
  intro s h pc en start
  obtain ⟨⟨samples, -⟩, -⟩ := config_wf_cases h.cfg_wf
  have last := tableEntry_of_lt (Nat.sub_lt samples Nat.one_pos)
  refine ⟨_, _, last, ?_⟩
  refine h.reaches_microOp (.poll pc) (exec_poll_running 13 en) ?_
  refine State.Undisturbed.reaches_microOp { h with } (.setind_running (by simp [pc])) (exec_setind true _) ?_
  refine State.Undisturbed.reaches_microOp { h with } (.passinit (by simp [pc])) (exec_passinit _) ?_
  refine State.Undisturbed.reaches_pass_end (left := s.cfg.n - 1) (t := s.time) { h with } (by simp [pc])
    (Nat.sub_add_cancel samples).symm (by simp [start]) (by simp [start]) last ?_
  refine State.Undisturbed.reaches_microOp { h with } (.diag_running rfl) (exec_diag true _) ?_
  refine State.Undisturbed.reaches_microOp { h with } (.jmp_gap rfl) (exec_jmp 17 _) ?_
  refine State.Undisturbed.reaches_wait { h with } (.gap rfl) (us := s.cfg.gapUs)
    (fun v hv => by rw [exec, execGap, hv]) ?_
  refine State.Undisturbed.reaches_microOp { h with } (.jmp_poll rfl) (exec_jmp 3 _) ?_
  convert reaches_refl _ using 1
  simp [pc, start, passEntries, List.range_eq_range', Nat.sub_add_cancel samples]

end Sys2Proof.Machine
end

section
/-! PROOFS. 42_control.md R152 to R155, R164 to R166, 43_enable_source.md R185: the words and effects of the boot and
control-loop micro-ops and of TEST. -/

namespace Sys2Proof

theorem decode_of_encode {i : Instr} {w : Word} (h : encode i = w) : decode i.context w = .ok i :=
  decode_ok_iff.mpr ⟨h, rfl⟩

namespace Machine

theorem isToggle_of_toggle {cfg : Config} (toggle : cfg.variant = .toggle) : cfg.isToggle = true := by
  simp [Config.isToggle, toggle]

/-! ## Boot -/

theorem exec_init_succeeds {s : State} (ok : s.startupOk = true) :
    exec .init s = .next { s with armed := s.cfg.isToggle || s.armed, fgPc := s.fgPc + 1 } := by
  rw [exec, execInit, if_pos ok]
  rfl

theorem exec_init_fails {s : State} (ok : s.startupOk = false) :
    exec .init s = .next { s with fatal := .startupFault } := by
  rw [exec, execInit, if_neg (ne_true_of_eq_false ok)]
  rfl

theorem exec_put (s : State) :
    exec .put s = .next { s with slotFull := s.cfg.isToggle || s.slotFull, fgPc := s.fgPc + 1 } := rfl

theorem exec_unmask (s : State) :
    exec .unmask s = .next { s with irqEn := s.cfg.isToggle || s.irqEn, fgPc := s.fgPc + 1 } := rfl

/-- Settles O20: the bit each boot micro-op sets is `Config.isToggle`, or-ed to what it was. -/
theorem bootMicroOpsActInToggleOnly : Obligations.BootMicroOpsActInToggleOnly := by
  unfold Obligations.BootMicroOpsActInToggleOnly
  refine ⟨⟨rfl, rfl, rfl⟩, fun s =>
    ⟨fun ok toggle => ?_, fun ok free => ?_, exec_init_fails, fun toggle => ⟨?_, ?_⟩, fun free => ⟨?_, ?_⟩⟩⟩
  · rw [exec_init_succeeds ok, isToggle_of_toggle toggle, Bool.true_or]
  · rw [exec_init_succeeds ok, isToggle_of_freeRun free, Bool.false_or]
  · rw [exec_put, isToggle_of_toggle toggle, Bool.true_or]
  · rw [exec_unmask, isToggle_of_toggle toggle, Bool.true_or]
  · rw [exec_put, isToggle_of_freeRun free, Bool.false_or]
  · rw [exec_unmask, isToggle_of_freeRun free, Bool.false_or]

/-! ## Branches -/

theorem exec_poll_paused {s : State} (target : Addr) (en : s.en = false) :
    exec (.poll target) s = .next { s with fgPc := target } := by
  rw [exec, execPoll, if_neg (ne_true_of_eq_false en)]
  rfl

theorem exec_test_pending {s : State} (target : Addr) (pend : s.pend = true) :
    exec (.test target) s = .next { s with isrPc := s.isrPc + 1 } := by
  rw [exec, execTest, if_pos pend]
  rfl

theorem exec_test_clear {s : State} (target : Addr) (pend : s.pend = false) :
    exec (.test target) s = .next { s with isrPc := target } := by
  rw [exec, execTest, if_neg (ne_true_of_eq_false pend)]
  rfl

/-- Settles O24: a form-T word is its opcode or-ed with its target, and each branch has an equation for each value of its
bit. -/
theorem branchesTestTheirBit : Obligations.BranchesTestTheirBit := by
  unfold Obligations.BranchesTestTheirBit
  intro s target
  exact ⟨⟨decode_of_encode (i := .poll target) (wordOf_eq_or 0x04 target),
      decode_of_encode (i := .jmp target) (wordOf_eq_or 0x10 target),
      decode_of_encode (i := .test target) (wordOf_eq_or 0x12 target)⟩,
    exec_jmp target s, exec_poll_running target, exec_poll_paused target, exec_test_pending target,
    exec_test_clear target⟩

/-! ## Indicator and diagnostics -/

theorem exec_diag_reports {s : State} {v : Bool} (changed : s.last ≠ v) (verbose : s.cfg.verbose = .on) :
    exec (.diag v) s = .next { s with last := v, diagLog := s.diagLog ++ [⟨s.time, v⟩], fgPc := s.fgPc + 1 } := by
  rw [exec_diag, if_pos ⟨changed, verbose⟩]

theorem exec_diag_silent {s : State} {v : Bool} (silent : s.last = v ∨ s.cfg.verbose = .off) :
    exec (.diag v) s = .next { s with last := v, fgPc := s.fgPc + 1 } := by
  have unreported : ¬(s.last ≠ v ∧ s.cfg.verbose = .on) := by
    rintro ⟨changed, verbose⟩
    obtain same | off := silent
    · exact changed same
    · exact absurd (verbose.symm.trans off) nofun
  rw [exec_diag, if_neg unreported]

/-- Settles O25: the four words by their values, SETIND by its equation, and DIAG by `exec_diag_reports` and
`exec_diag_silent`. -/
theorem indicatorAndDiagnostics : Obligations.IndicatorAndDiagnostics := by
  unfold Obligations.IndicatorAndDiagnostics
  intro s v
  refine ⟨?_, exec_setind v s, exec_diag_reports, exec_diag_silent⟩
  cases v with
  | false => exact ⟨rfl, rfl⟩
  | true => exact ⟨rfl, rfl⟩

end Machine

end Sys2Proof
end

section
/-! PROOFS. 42_control.md R161, R163: the canonical invariant over every step, and FreeRun under every schedule. -/

namespace Sys2Proof.Machine

/-- Settles O41: a reset and every other effect of a step keep the invariant, which does not mention the schedule. -/
theorem stepKeepsTheCanonicalInvariant : Obligations.StepKeepsTheCanonicalInvariant := by
  unfold Obligations.StepKeepsTheCanonicalInvariant
  exact fun _ _ => step_keeps_canonicalInv

/-! ## FreeRun -/

/-- A machine that does not exist makes no step, so its run is its first state. -/
theorem eq_of_reaches_of_not_admitted {s t : State} (h : ¬s.Admitted) (run : Reaches s t) : t = s :=
  reaches_keeps (P := (· = s)) (fun _ _ same hstep => absurd (same ▸ admitted_of_next hstep) h) rfl run

/-- Every state of a run on an admitted micro-program meets the state invariant, in the run's own configuration. -/
theorem reachable_inv {cfg : Config} {rom : Memory} {t : State} (hcfg : cfg.wf = true) (hrom : Memory.wf rom)
    (hpass : letsTimePass rom = true) (reachable : Reachable cfg rom t) : t.Inv ∧ t.cfg = cfg := by
  obtain ⟨btn, ok, schedule, run⟩ := reachable
  refine reaches_keeps (P := fun u => u.Inv ∧ u.cfg = cfg) ?_ ⟨initial_inv hcfg hrom hpass .., rfl⟩ run
  rintro u v ⟨inv, sameCfg⟩ hstep
  exact ⟨stepKeepsTheStateInvariant u v inv hstep, (step_keeps_parameters hstep).1.trans sameCfg⟩

/-- Settles O44: the FreeRun clause of the state invariant where the micro-program lets time pass, and the power-up state
where it does not, because then no step is made. -/
theorem freeRunNeverInterrupts : Obligations.FreeRunNeverInterrupts := by
  unfold Obligations.FreeRunNeverInterrupts
  intro cfg rom t hcfg hrom free reachable
  by_cases hpass : letsTimePass rom = true
  · obtain ⟨inv, rfl⟩ := reachable_inv hcfg hrom hpass reachable
    obtain ⟨en, armed, irqEn, pend, inIsr, -⟩ := inv.free_run free
    exact ⟨en, armed, pend, irqEn, inIsr⟩
  · obtain ⟨btn, ok, schedule, run⟩ := reachable
    obtain rfl := eq_of_reaches_of_not_admitted (fun admitted => hpass admitted.2) run
    exact ⟨decide_eq_true free, rfl, rfl, rfl, rfl⟩

end Sys2Proof.Machine
end

section
/-! PROOFS. 42_control.md R162: what a state answers under another VERBOSE and with another diagnostic log. -/

namespace Sys2Proof.Machine

/-- A part of the step that answers the same under every VERBOSE and with every diagnostic log, up to these two
(42_control.md R162). -/
def VerbosityBlind (f : State → Host.Outcome State Fault Refusal) : Prop :=
  ∀ (s : State) (v : Verbosity) (d : List DiagEntry),
    ∃ d', f (s.withVerbosity v d) = mapNext (State.withVerbosity v d') (f s)

/-! ## How blind parts are put together -/

/-- A part that leaves the diagnostic log as it is and does not look at VERBOSE. -/
theorem VerbosityBlind.of_commutes {f : State → Host.Outcome State Fault Refusal}
    (h : ∀ s v d, f (s.withVerbosity v d) = mapNext (State.withVerbosity v d) (f s)) : VerbosityBlind f :=
  fun s v d => ⟨d, h s v d⟩

/-- A choice between two blind parts by a condition on neither VERBOSE nor DIAG_LOG. -/
theorem VerbosityBlind.choice {c : State → Prop} [DecidablePred c] {f g : State → Host.Outcome State Fault Refusal}
    (hc : ∀ s v d, c (s.withVerbosity v d) ↔ c s) (hf : VerbosityBlind f) (hg : VerbosityBlind g) :
    VerbosityBlind fun s => if c s then f s else g s := by
  intro s v d
  simp only [hc]
  split
  · exact hf s v d
  · exact hg s v d

/-- The same where the choice is between two next states. -/
theorem VerbosityBlind.next_choice {c : State → Prop} [DecidablePred c] {f g : State → State}
    (hc : ∀ s v d, c (s.withVerbosity v d) ↔ c s) (hf : VerbosityBlind fun s => .next (f s))
    (hg : VerbosityBlind fun s => .next (g s)) : VerbosityBlind fun s => .next (if c s then f s else g s) := by
  simpa only [apply_ite] using hf.choice hc hg

/-! ## The micro-ops -/

theorem verbosityBlind_waitForeground (us : Nat) : VerbosityBlind (waitForeground us) :=
  .choice (fun _ _ _ => .rfl) (.of_commutes fun _ _ _ => rfl)
    (.choice (fun _ _ _ => .rfl) (.of_commutes fun _ _ _ => rfl) (.of_commutes fun _ _ _ => rfl))

theorem verbosityBlind_waitHandler (us : Nat) : VerbosityBlind (waitHandler us) :=
  .choice (fun _ _ _ => .rfl) (.of_commutes fun _ _ _ => rfl)
    (.choice (fun _ _ _ => .rfl) (.of_commutes fun _ _ _ => rfl) (.of_commutes fun _ _ _ => rfl))

theorem verbosityBlind_exec (i : Instr) : VerbosityBlind (exec i) := by
  cases i with
  | put | unmask | setind | passinit | inc | za | zb | jmp | toggle | clear | reti => exact .of_commutes fun _ _ _ => rfl
  | init | poll | test | passnext =>
    exact .next_choice (fun _ _ _ => .rfl) (.of_commutes fun _ _ _ => rfl) (.of_commutes fun _ _ _ => rfl)
  | take =>
    exact .next_choice (fun _ _ _ => .rfl) (.of_commutes fun _ _ _ => rfl)
      (.next_choice (fun _ _ _ => .rfl) (.of_commutes fun _ _ _ => rfl) (.of_commutes fun _ _ _ => rfl))
  | waits => exact fun s => verbosityBlind_waitForeground s.cfg.sampleUs s
  | gap => exact fun s => verbosityBlind_waitForeground s.cfg.gapUs s
  | debounce => exact fun s => verbosityBlind_waitHandler s.cfg.debounceUs s
  | wra | wrb =>
    refine .of_commutes fun s v d => ?_
    have sameEntry : tableEntry (s.withVerbosity v d).cfg (s.withVerbosity v d).idx = tableEntry s.cfg s.idx := rfl
    simp only [exec, execWra, execWrb, sameEntry]
    split <;> rfl
  | diag value =>
    intro s v d
    rw [exec_diag, exec_diag]
    exact ⟨_, rfl⟩

/-! ## The step -/

theorem verbosityBlind_sequencerStep (ctx : Context) : VerbosityBlind (sequencerStep ctx) := by
  intro s v d
  have same : decode ctx (fetchWord ctx (s.withVerbosity v d)) = decode ctx (fetchWord ctx s) := by cases ctx <;> rfl
  cases fetched : decode ctx (fetchWord ctx s) with
  | ok i =>
    rw [sequencerStep_of_ok fetched, sequencerStep_of_ok (same.trans fetched)]
    exact verbosityBlind_exec i s v d
  | error e =>
    rw [sequencerStep_of_error fetched, sequencerStep_of_error (same.trans fetched)]
    exact ⟨d, rfl⟩

theorem verbosityBlind_blockStep : VerbosityBlind blockStep :=
  .choice (fun _ _ _ => .rfl) (.of_commutes fun _ _ _ => rfl)
    (.choice (fun _ _ _ => .rfl) (verbosityBlind_sequencerStep .isr)
      (.choice (fun _ _ _ => .rfl) (verbosityBlind_sequencerStep .fg) (.of_commutes fun _ _ _ => rfl)))

theorem verbosityBlind_tickStep : VerbosityBlind tickStep :=
  .choice (fun _ _ _ => .rfl) (.of_commutes fun _ _ _ => rfl) (.of_commutes fun _ _ _ => rfl)

theorem verbosityBlind_unscheduledStep : VerbosityBlind unscheduledStep :=
  .choice (fun _ _ _ => .rfl) verbosityBlind_blockStep verbosityBlind_tickStep

/-- No register of the observation bus shows VERBOSE or DIAG_LOG (10_state.md R48 to R58). -/
theorem registerWord_withVerbosity (s : State) (v : Verbosity) (d : List DiagEntry) (k : Nat) :
    registerWord (s.withVerbosity v d) k = registerWord s k := by
  unfold registerWord
  split <;> rfl

theorem memRead_withVerbosity (s : State) (v : Verbosity) (d : List DiagEntry) (addr width : Nat) :
    memRead (s.withVerbosity v d) addr width = memRead s addr width := by
  have sameTable (i : Nat) : tableWordAt (s.withVerbosity v d).cfg i = tableWordAt s.cfg i := rfl
  simp only [memRead, busWord, registerWord_withVerbosity, sameTable]

theorem verbosityBlind_moveStep (m : Move) : VerbosityBlind (moveStep m) := by
  cases m with
  | block => exact verbosityBlind_blockStep
  | tick => exact verbosityBlind_tickStep
  | button | startup | reset | hostWrite => exact .of_commutes fun _ _ _ => rfl
  | hostRead addr width =>
    refine .of_commutes fun s v d => ?_
    simp only [moveStep, hostRead, memRead_withVerbosity]
    rfl

theorem verbosityBlind_scheduledStep : VerbosityBlind scheduledStep := by
  intro s v d
  have same : (s.withVerbosity v d).schedule = s.schedule := rfl
  cases hs : s.schedule with
  | nil =>
    simp only [scheduledStep, same, hs]
    exact verbosityBlind_unscheduledStep s v d
  | cons m rest =>
    simp only [scheduledStep, same, hs]
    exact verbosityBlind_moveStep m { s with schedule := rest } v d

theorem verbosityBlind_step : VerbosityBlind step :=
  .choice (fun _ _ _ => .rfl)
    (.choice (fun _ _ _ => .rfl) verbosityBlind_scheduledStep (.of_commutes fun _ _ _ => rfl))
    (.of_commutes fun _ _ _ => rfl)

/-- Settles O38: the three outcomes of `verbosityBlind_step`. -/
theorem verbosityChangesOnlyTheDiagnostics : Obligations.VerbosityChangesOnlyTheDiagnostics := by
  unfold Obligations.VerbosityChangesOnlyTheDiagnostics
  intro s v d
  obtain ⟨d', answer⟩ := verbosityBlind_step s v d
  refine ⟨fun t ht => ⟨d', ?_⟩, fun r hr => ?_, fun r hr => ?_⟩
  · rw [answer, ht, mapNext]
  · rw [answer, hr, mapNext]
  · rw [answer, hr, mapNext]

end Sys2Proof.Machine
end

section
/-! PROOFS. 42_control.md R155, 93_implementation_defined.md V7: the canonical programs have no zero-time loop, and the check
on a ROM finds one exactly where there is one. -/

namespace Sys2Proof.Machine

/-! ## What the canonical image holds -/

theorem ForegroundAt.decoded {a : Addr} {i : Instr} (place : ForegroundAt a i) :
    decode .fg (Memory.read [] a.toNat) = .ok i :=
  ForegroundAt.fetched (s := { State.reset with fgPc := a }) place rfl

theorem HandlerAt.decoded {a : Addr} {i : Instr} (place : HandlerAt a i) :
    decode .isr (Memory.read [] a.toNat) = .ok i :=
  HandlerAt.fetched (s := { State.reset with isrPc := a }) place rfl

/-- No word is a micro-op for both sequencers. -/
theorem decode_unique {ctx ctx' : Context} {w : Word} {i j : Instr} (hi : decode ctx w = .ok i)
    (hj : decode ctx' w = .ok j) : ctx = ctx' ∧ i = j := by
  obtain ⟨rfl, rfl⟩ := decode_ok_iff.mp hi
  rw [decode_encode] at hj
  split at hj
  · exact ⟨‹_›, Except.ok.inj hj⟩
  · cases hj

/-- An address holds a micro-op of the foreground's program, one of the handler's, or the word 0x0000. -/
theorem canonicalImage_cases (a : Addr) :
    (∃ i, ForegroundAt a i) ∨ (∃ i, HandlerAt a i) ∨ Memory.read [] a.toNat = 0x0000 := by
  by_cases foreground : a.toNat ≤ 18
  · exact .inl (exists_foregroundAt foreground)
  · by_cases handler : 32 ≤ a.toNat ∧ a.toNat ≤ 37
    · exact .inr (.inl (exists_handlerAt handler))
    · exact .inr (.inr (canonicalWord_outside (by omega)))

/-- A micro-op that a sequencer decodes from the canonical image is one of its own program. -/
theorem placed_of_decode {ctx : Context} {a : Addr} {i : Instr} (h : decode ctx (Memory.read [] a.toNat) = .ok i) :
    (ctx = .fg ∧ ForegroundAt a i) ∨ (ctx = .isr ∧ HandlerAt a i) := by
  obtain ⟨j, place⟩ | ⟨j, place⟩ | blank := canonicalImage_cases a
  · obtain ⟨rfl, rfl⟩ := decode_unique h place.decoded
    exact .inl ⟨rfl, place⟩
  · obtain ⟨rfl, rfl⟩ := decode_unique h place.decoded
    exact .inr ⟨rfl, place⟩
  · rw [blank] at h
    cases h

/-! ## The canonical programs let time pass -/

theorem exists_decode_of_zeroTimeEdge {ctx : Context} {rom : Memory} {a b : Addr} (edge : ZeroTimeEdge ctx rom a b) :
    ∃ i, decode ctx (Memory.read rom a.toNat) = .ok i := by
  cases fetched : decode ctx (Memory.read rom a.toNat) with
  | ok i => exact ⟨i, rfl⟩
  | error e =>
    rw [ZeroTimeEdge, zeroTimeNext, fetched] at edge
    cases edge

/-- A rank for the foreground: its program goes down the addresses in zero time, and the two branches back, at 10 and 18,
stand behind a wait. -/
def foregroundRank (a : Addr) : Nat := if a = 10 ∨ a = 18 then 20 else 19 - a.toNat

/-- A rank for the handler, which never branches back. -/
def handlerRank (a : Addr) : Nat := 37 - a.toNat

theorem ForegroundAt.rank_falls {a b : Addr} {i : Instr} (place : ForegroundAt a i) (edge : ZeroTimeEdge .fg [] a b) :
    foregroundRank b < foregroundRank a := by
  have all : (zeroTimeNext .fg [] a).all (fun b => foregroundRank b < foregroundRank a) = true := by
    cases place with
    | _ pc => subst pc; rfl
  exact of_decide_eq_true (List.all_eq_true.mp all b edge)

theorem HandlerAt.rank_falls {a b : Addr} {i : Instr} (place : HandlerAt a i) (edge : ZeroTimeEdge .isr [] a b) :
    handlerRank b < handlerRank a := by
  have all : (zeroTimeNext .isr [] a).all (fun b => handlerRank b < handlerRank a) = true := by
    cases place with
    | _ pc => subst pc; rfl
  exact of_decide_eq_true (List.all_eq_true.mp all b edge)

theorem zenoFree_canonical (ctx : Context) : ZenoFree ctx [] := by
  cases ctx with
  | fg =>
    refine ⟨foregroundRank, fun a b edge => ?_⟩
    obtain ⟨i, fetched⟩ := exists_decode_of_zeroTimeEdge edge
    obtain ⟨-, place⟩ | ⟨other, -⟩ := placed_of_decode fetched
    · exact place.rank_falls edge
    · cases other
  | isr =>
    refine ⟨handlerRank, fun a b edge => ?_⟩
    obtain ⟨i, fetched⟩ := exists_decode_of_zeroTimeEdge edge
    obtain ⟨other, -⟩ | ⟨-, place⟩ := placed_of_decode fetched
    · cases other
    · exact place.rank_falls edge

/-! ## The check -/

theorem memory_read_of_unlisted {m : Memory} {a : Nat} (h : ∀ c ∈ m, c.1 ≠ a) : m.read a = canonicalWord a := by
  induction m with
  | nil => rfl
  | cons c rest ih =>
    exact (if_neg (h c List.mem_cons_self)).trans (ih fun c hc => h c (List.mem_cons_of_mem _ hc))

/-- An address that a ROM does not list goes where the canonical image does. -/
theorem zeroTimeNext_of_unlisted (ctx : Context) {rom : Memory} {a : Addr} (h : ∀ c ∈ rom, c.1 ≠ a.toNat) :
    zeroTimeNext ctx rom a = zeroTimeNext ctx [] a := by
  rw [zeroTimeNext, zeroTimeNext, memory_read_of_unlisted h, Memory.read]

/-- Every zero-time loop passes through a listed address: else the rank of the canonical programs would fall all along it. -/
theorem exists_listed_on_loop {ctx : Context} {rom : Memory} {a : Addr}
    (loop : Relation.TransGen (ZeroTimeEdge ctx rom) a a) :
    ∃ c ∈ rom, ∃ x : Addr, c.1 = x.toNat ∧ Relation.TransGen (ZeroTimeEdge ctx rom) x x := by
  by_contra unlisted
  obtain ⟨rank, falls⟩ := zenoFree_canonical ctx
  have falls_on_loop : ∀ x y, ZeroTimeEdge ctx rom x y → Relation.ReflTransGen (ZeroTimeEdge ctx rom) y x →
      rank y < rank x := by
    intro x y edge back
    have onLoop : ∀ c ∈ rom, c.1 ≠ x.toNat := fun c hc here => unlisted ⟨c, hc, x, here, .head' edge back⟩
    exact falls x y (zeroTimeNext_of_unlisted ctx onLoop ▸ edge)
  have falls_along : ∀ y, Relation.TransGen (ZeroTimeEdge ctx rom) a y →
      Relation.ReflTransGen (ZeroTimeEdge ctx rom) y a → rank y < rank a := by
    intro y path
    induction path with
    | single edge => exact falls_on_loop a _ edge
    | tail path edge ih =>
      intro back
      exact (falls_on_loop _ _ edge (back.trans path.to_reflTransGen)).trans (ih (.head edge back))
  exact absurd (falls_along a loop .refl) (Nat.lt_irrefl _)

/-- The check on one sequencer, which looks at the listed addresses only, misses no loop. -/
theorem hasZeroTimeLoop_iff {ctx : Context} {rom : Memory} :
    hasZeroTimeLoop ctx rom = true ↔ ∃ a, Relation.TransGen (ZeroTimeEdge ctx rom) a a := by
  simp only [hasZeroTimeLoop, List.any_eq_true, comesBack_iff]
  constructor
  · rintro ⟨c, -, loop⟩
    exact ⟨_, loop⟩
  · rintro ⟨a, loop⟩
    obtain ⟨c, listed, x, here, loop⟩ := exists_listed_on_loop loop
    exact ⟨c, listed, by simpa [here] using loop⟩

theorem letsTimePass_eq_false_iff {rom : Memory} :
    letsTimePass rom = false ↔ ∃ ctx a, Relation.TransGen (ZeroTimeEdge ctx rom) a a := by
  have someSequencer : letsTimePass rom = false ↔ hasZeroTimeLoop .fg rom = true ∨ hasZeroTimeLoop .isr rom = true := by
    simp only [letsTimePass, Bool.and_eq_false_iff, Bool.not_eq_false']
  rw [someSequencer, hasZeroTimeLoop_iff, hasZeroTimeLoop_iff]
  constructor
  · rintro (loop | loop)
    · exact ⟨.fg, loop⟩
    · exact ⟨.isr, loop⟩
  · rintro ⟨ctx, loop⟩
    cases ctx with
    | fg => exact .inl loop
    | isr => exact .inr loop

theorem step_of_zeroTimeLoop {s : State} (hcfg : s.cfg.wf = true) (loop : letsTimePass s.rom = false) :
    step s = .refused .zeroTimeLoop := by
  simp [step, hcfg, loop]

theorem zeroTimeEdge_jmp {rom : Memory} {a target : Addr} (word : Memory.read rom a.toNat = encode (.jmp target)) :
    ZeroTimeEdge .fg rom a target := by
  have fetched : decode .fg (Memory.read rom a.toNat) = .ok (.jmp target) := by rw [word, decode_encode]; rfl
  rw [ZeroTimeEdge, zeroTimeNext, fetched]
  exact List.mem_singleton_self target

/-- Settles O48: the ranks of the canonical programs, `letsTimePass_eq_false_iff` for the check, and `JMP a` at a as a loop of
one transition. -/
theorem onlyProgramsThatLetTimePassRun : Obligations.OnlyProgramsThatLetTimePassRun := by
  unfold Obligations.OnlyProgramsThatLetTimePassRun
  refine ⟨⟨zenoFree_canonical .fg, zenoFree_canonical .isr⟩, fun rom => letsTimePass_eq_false_iff,
    fun s => step_of_zeroTimeLoop, fun a => ?_⟩
  have word := memory_read_write_same [] a.toNat (encode (.jmp a)) memory_canonical_wf
  exact letsTimePass_eq_false_iff.mpr ⟨.fg, a, .single (zeroTimeEdge_jmp word)⟩

end Sys2Proof.Machine
end

section
/-! PROOFS. 42_control.md R156, R158: the boot into the paused loop, and an undisturbed Paused iteration. -/

namespace Sys2Proof.Machine

theorem exec_za (s : State) :
    exec .za s = .next { s with chA := 0, outLog := s.outLog ++ [.chA s.time 0], fgPc := s.fgPc + 1 } := rfl

theorem exec_zb (s : State) :
    exec .zb s = .next { s with chB := 0, outLog := s.outLog ++ [.chB s.time 0], fgPc := s.fgPc + 1 } := rfl

/-- The micro-op placed at FG_PC, in front of the steps still to make. -/
theorem runSteps_foregroundAt {s t : State} {i : Instr} {k : Nat} {u : Host.Outcome State Fault Refusal}
    (hadm : s.Admitted) (schedule : s.schedule = []) (rom : s.rom = []) (enabled : fgEnabled s = true)
    (place : ForegroundAt s.fgPc i) (run : exec i s = .next t) (rest : runSteps k t = u) : runSteps (k + 1) s = u := by
  rw [runSteps, (step_of_foregroundAt hadm schedule rom enabled place).trans run]
  exact rest

/-- Settles O49: the boot's three micro-ops, POLL's branch to 13, and the five of the Paused iteration before GAP. -/
theorem bootRunsIntoThePausedLoop : Obligations.BootRunsIntoThePausedLoop := by
  unfold Obligations.BootRunsIntoThePausedLoop
  intro cfg btn hcfg toggle s
  have hadm : cfg.wf = true ∧ letsTimePass [] = true := ⟨hcfg, letsTimePass_canonical⟩
  have paused : s.en = false := by simp [s, State.initial, toggle]
  refine runSteps_foregroundAt hadm rfl rfl rfl (.init rfl) (exec_init_succeeds rfl) ?_
  refine runSteps_foregroundAt hadm rfl rfl rfl (.put rfl) (exec_put _) ?_
  refine runSteps_foregroundAt hadm rfl rfl rfl (.unmask rfl) (exec_unmask _) ?_
  refine runSteps_foregroundAt hadm rfl rfl rfl (.poll rfl) (exec_poll_paused 13 paused) ?_
  refine runSteps_foregroundAt hadm rfl rfl rfl (.setind_paused rfl) (exec_setind false _) ?_
  refine runSteps_foregroundAt hadm rfl rfl rfl (.za rfl) (exec_za _) ?_
  refine runSteps_foregroundAt hadm rfl rfl rfl (.zb rfl) (exec_zb _) ?_
  refine runSteps_foregroundAt hadm rfl rfl rfl (.diag_paused rfl) (exec_diag_silent (.inl rfl)) ?_
  simp [runSteps, s, State.initial, isToggle_of_toggle toggle]

/-- Settles O50: POLL's branch to 13, the Paused micro-ops, the gap, and JMP back to POLL. -/
theorem pausedIterationHoldsTheOutputsAtZero : Obligations.PausedIterationHoldsTheOutputsAtZero := by
  unfold Obligations.PausedIterationHoldsTheOutputsAtZero
  intro s h pc en
  refine h.reaches_microOp (.poll pc) (exec_poll_paused 13 en) ?_
  refine State.Undisturbed.reaches_microOp { h with } (.setind_paused rfl) (exec_setind false _) ?_
  refine State.Undisturbed.reaches_microOp { h with } (.za rfl) (exec_za _) ?_
  refine State.Undisturbed.reaches_microOp { h with } (.zb rfl) (exec_zb _) ?_
  refine State.Undisturbed.reaches_microOp { h with } (.diag_paused rfl) (exec_diag false _) ?_
  refine State.Undisturbed.reaches_wait { h with } (.gap rfl) (us := s.cfg.gapUs)
    (fun v hv => by rw [exec, execGap, hv]) ?_
  refine State.Undisturbed.reaches_microOp { h with } (.jmp_poll rfl) (exec_jmp 3 _) ?_
  convert reaches_refl _ using 1
  simp [pc]

end Sys2Proof.Machine
end

section
/-! PROOFS. 43_enable_source.md R181 to R189: the edge latch, the words and effects of the handler's micro-ops, and their
independence of the foreground. -/

namespace Sys2Proof.Machine

/-! ## The edge latch -/

theorem edgeLatches_iff {level : Bool} {s : State} : edgeLatches level s = true ↔
    s.btn = true ∧ level = false ∧ s.armed = true ∧ s.inIsr = false ∧ s.fatal = .noFatal := by
  simp [edgeLatches, and_assoc]

/-- Settles O11: the scheduled move is `setButton`, and `edgeLatches_iff` says when it touches PEND. -/
theorem edgeLatchTakesArmedFallingEdges : Obligations.EdgeLatchTakesArmedFallingEdges := by
  unfold Obligations.EdgeLatchTakesArmedFallingEdges
  intro s level rest hadm hs
  have next : step s = .next (setButton level { s with schedule := rest }) := step_of_move hadm hs
  refine ⟨fun edge => ?_, fun noEdge => ?_⟩
  · have latched : edgeLatches level { s with schedule := rest } = true := edgeLatches_iff.mpr edge
    rw [next, setButton, if_pos latched]
  · have missed : ¬edgeLatches level { s with schedule := rest } = true := mt edgeLatches_iff.mp noEdge
    rw [next, setButton, if_neg missed]

/-! ## TAKE -/

theorem exec_take_owned {s : State} (owned : s.owned = true) :
    exec .take s = .next { s with isrPc := s.isrPc + 1 } := by
  rw [exec, execTake, if_pos owned]
  rfl

theorem exec_take_slot {s : State} (owned : s.owned = false) (slot : s.slotFull = true) :
    exec .take s = .next { s with slotFull := false, owned := true, isrPc := s.isrPc + 1 } := by
  rw [exec, execTake, if_neg (ne_true_of_eq_false owned), if_pos slot]
  rfl

theorem exec_take_empty {s : State} (owned : s.owned = false) (slot : s.slotFull = false) :
    exec .take s = .next { s with fatal := .handoffEmpty } := by
  rw [exec, execTake, if_neg (ne_true_of_eq_false owned), if_neg (ne_true_of_eq_false slot)]
  rfl

/-- Settles O26: one equation for each of TAKE's three cases. -/
theorem takeMovesTheResourceOnce : Obligations.TakeMovesTheResourceOnce := by
  unfold Obligations.TakeMovesTheResourceOnce
  exact ⟨rfl, fun s => ⟨exec_take_owned, exec_take_slot, exec_take_empty⟩⟩

/-! ## TOGGLE, CLEAR and RETI -/

theorem exec_toggle (s : State) : exec .toggle s = .next { s with en := !s.en, isrPc := s.isrPc + 1 } := rfl

theorem exec_clear (s : State) : exec .clear s = .next { s with pend := false, isrPc := s.isrPc + 1 } := rfl

theorem exec_reti (s : State) : exec .reti s = .next { s with inIsr := false } := rfl

/-- Settles O27: the three words by their values, and the equation of each micro-op. -/
theorem toggleClearAndReturn : Obligations.ToggleClearAndReturn := by
  unfold Obligations.ToggleClearAndReturn
  exact ⟨⟨rfl, rfl, rfl⟩, fun s => ⟨exec_toggle s, exec_clear s, exec_reti s⟩⟩

/-! ## DEBOUNCE -/

theorem waitHandler_issue (us : Nat) {s : State} (idle : s.debActive = false) :
    waitHandler us s = .next { s with debActive := true, debRem := us } := if_pos idle

theorem waitHandler_complete (us : Nat) {s : State} (active : s.debActive = true) (elapsed : s.debRem = 0) :
    waitHandler us s = .next { s with debActive := false, isrPc := s.isrPc + 1 } := by
  rw [waitHandler, if_neg (ne_false_of_eq_true active), if_pos elapsed]
  rfl

theorem isrEnabled_of_running {s : State} (active : s.debActive = true) (running : 0 < s.debRem) :
    isrEnabled s = false :=
  Bool.eq_false_of_not_eq_true fun enabled => by
    obtain ⟨-, -, free⟩ := isrEnabled_iff.mp enabled
    exact free ⟨active, running⟩

/-- A tick counts the debounce wait down whatever WAIT_MODE is (43_enable_source.md R188). -/
theorem debWaitCounts_iff {s : State} :
    debWaitCounts s = true ↔ s.fatal = .noFatal ∧ s.debActive = true ∧ 0 < s.debRem := by
  simp [debWaitCounts, and_assoc]

/-- Settles O28: DEBOUNCE is `waitHandler`, and the countdown is `debWaitCounts_iff`. -/
theorem debounceIssuesAndCompletes : Obligations.DebounceIssuesAndCompletes := by
  unfold Obligations.DebounceIssuesAndCompletes
  refine ⟨rfl, fun s => ⟨waitHandler_issue _, waitHandler_complete _,
    fun active running => ⟨isrEnabled_of_running active running, fun alive => ?_⟩⟩⟩
  rw [tick_debRem, if_pos (debWaitCounts_iff.mpr ⟨alive, active, running⟩)]

/-! ## Independence of the foreground -/

/-- A handler micro-op branches on the handler's own fields only, so both sides take the same branch; what that branch
updates is disjoint from the foreground's fields. -/
theorem exec_withForegroundOf {i : Instr} (u s : State) (handler : i.context = .isr) :
    exec i (u.withForegroundOf s) = mapNext u.withForegroundOf (exec i s) := by
  cases i with
  | toggle | clear | reti => rfl
  | test | take =>
    simp only [exec, execTest, execTake, mapNext, apply_ite u.withForegroundOf]
    rfl
  | debounce =>
    simp only [exec, execDebounce, waitHandler, apply_ite (mapNext u.withForegroundOf)]
    rfl
  | _ => cases handler

/-- Settles O33: every handler micro-op, in each of its cases, refusals among them. -/
theorem handlerNeitherReadsNorWritesForegroundState : Obligations.HandlerNeitherReadsNorWritesForegroundState := by
  unfold Obligations.HandlerNeitherReadsNorWritesForegroundState
  exact fun _ s u => exec_withForegroundOf u s

end Sys2Proof.Machine
end

section
/-! PROOFS. 43_enable_source.md R183, R190, R191: the phases of a handler invocation over every step but reset. -/

namespace Sys2Proof.Machine

theorem State.HandlerPhase.isrPc_bounds {e : Bool} {s : State} (h : s.HandlerPhase e) :
    32 ≤ s.isrPc.toNat ∧ s.isrPc.toNat ≤ 37 := by
  obtain ⟨pc | pc | pc, -⟩ | ⟨pc, -⟩ | ⟨pc | pc, -⟩ := h.phase <;> simp [pc]

theorem State.HandlerPhase.with_schedule {e : Bool} {s : State} (h : s.HandlerPhase e) (rest : List Move) :
    State.HandlerPhase e { s with schedule := rest } := { h with }

theorem setButton_keeps_handlerPhase {e : Bool} {s : State} (h : s.HandlerPhase e) (level : Bool) :
    (setButton level s).HandlerPhase e := by
  have samePend : (setButton level s).pend = s.pend := by simp [edgeLatches, h.in_isr]
  exact { h with phase := by rw [samePend]; exact h.phase }

theorem State.HandlerPhase.owned_of_past_take {e : Bool} {s : State} (h : s.HandlerPhase e) (past : s.isrPc ≠ 32) :
    s.owned = true := h.resource.resolve_right fun ⟨_, pc⟩ => past pc

/-- A handler micro-op takes the invocation to its next phase, and RETI ends it. -/
theorem State.HandlerPhase.after_microOp {e : Bool} {s t : State} {i : Instr} (h : s.HandlerPhase e)
    (place : HandlerAt s.isrPc i) (effect : MicroOpEffect s i t) :
    t.HandlerPhase e ∨ (t.inIsr = false ∧ t.en = !e ∧ t.pend = false) := by
  have phase := h.phase
  cases place with
  | take pc =>
    have before : s.en = e ∧ s.pend = true := by simpa [pc] using phase
    have next : s.isrPc + 1 = 32 ∨ s.isrPc + 1 = 33 ∨ s.isrPc + 1 = 34 := by simp [pc]
    cases effect with
    | take_owned owned => exact .inl { h with resource := .inl owned, phase := .inl ⟨next, before⟩ }
    | take_slot => exact .inl { h with resource := .inl rfl, phase := .inl ⟨next, before⟩ }
    | take_empty notOwned noSlot => simpa [notOwned, noSlot] using h.resource
  | test pc =>
    obtain ⟨en, pend⟩ : s.en = e ∧ s.pend = true := by simpa [pc] using phase
    have owned := h.owned_of_past_take (by simp [pc])
    cases effect with
    | test_pending => exact .inl { h with resource := .inl owned, phase := .inl ⟨by simp [pc], en, pend⟩ }
    | test_clear noEdge => exact absurd pend (ne_true_of_eq_false noEdge)
  | toggle pc =>
    obtain ⟨en, pend⟩ : s.en = e ∧ s.pend = true := by simpa [pc] using phase
    have owned := h.owned_of_past_take (by simp [pc])
    cases effect
    exact .inl { h with resource := .inl owned, phase := .inr (.inl ⟨by simp [pc], congrArg (!·) en, pend⟩) }
  | clear pc =>
    obtain ⟨en, -⟩ : s.en = (!e) ∧ s.pend = true := by simpa [pc] using phase
    have owned := h.owned_of_past_take (by simp [pc])
    cases effect
    exact .inl { h with resource := .inl owned, phase := .inr (.inr ⟨by simp [pc], en, rfl⟩) }
  | debounce pc =>
    have past : s.en = (!e) ∧ s.pend = false := by simpa [pc] using phase
    have owned := h.owned_of_past_take (by simp [pc])
    cases effect with
    | debounce_issue => exact .inl { h with }
    | debounce_complete =>
      exact .inl { h with resource := .inl owned, phase := .inr (.inr ⟨by simp [pc], past⟩) }
  | reti pc =>
    have past : s.en = (!e) ∧ s.pend = false := by simpa [pc] using phase
    cases effect
    exact .inr ⟨rfl, past⟩

/-- Inside the handler there is no entry and no foreground step, and what ENV and HOST do leaves the phase alone. -/
theorem State.HandlerPhase.after_step {e : Bool} {s t : State} (h : s.HandlerPhase e) (effect : StepEffect s t) :
    t.HandlerPhase e ∨ (t.inIsr = false ∧ t.en = !e ∧ t.pend = false) := by
  obtain ⟨i, place⟩ := exists_handlerAt h.isrPc_bounds
  have fetched := place.fetched h.rom
  have noForeground : fgEnabled s = false := by simp [fgEnabled, h.in_isr]
  cases effect with
  | entry enabled => simp [entryEnabled, h.in_isr] at enabled
  | @microOp j _ enabled fetched' effect =>
    cases hctx : j.context with
    | fg =>
      rw [hctx] at enabled
      exact absurd enabled (ne_true_of_eq_false noForeground)
    | isr =>
      rw [hctx, fetched] at fetched'
      obtain rfl := Except.ok.inj fetched'
      exact h.after_microOp place effect
  | @illegal ctx _ enabled fetched' =>
    cases ctx with
    | fg => exact absurd enabled (ne_true_of_eq_false noForeground)
    | isr => rw [fetched] at fetched'; cases fetched'
  | button level => exact .inl (setButton_keeps_handlerPhase h level)
  | tick | startup | hostRead | hostWrite => exact .inl { h with }

/-- Settles O54: the invocation stays in a phase or ends, and IN_ISR says which. -/
theorem bounceInsideTheHandlerIsCollapsed : Obligations.BounceInsideTheHandlerIsCollapsed := by
  unfold Obligations.BounceInsideTheHandlerIsCollapsed
  intro e s t h hreset hstep
  obtain ⟨rest, effect⟩ := stepEffect_of_not_reset hstep hreset
  obtain phase | ⟨outside, result⟩ := (h.with_schedule rest).after_step effect
  · exact ⟨fun _ => phase, fun outside => absurd phase.in_isr (ne_true_of_eq_false outside)⟩
  · exact ⟨fun inside => absurd inside (ne_true_of_eq_false outside), fun _ => result⟩

end Sys2Proof.Machine
end

section
/-! PROOFS. 43_enable_source.md R190, 41_streamer.md R135: a whole handler invocation that nothing outside drives. -/

namespace Sys2Proof.Machine

/-- With nothing scheduled, an enabled interrupt entry is the next step. -/
theorem step_of_entry {s : State} (hadm : s.Admitted) (schedule : s.schedule = []) (entry : entryEnabled s = true) :
    step s = .next (enterInterrupt s) := by
  have block : blockEnabled s = true := by simp [blockEnabled, entry]
  rw [step_of_block hadm schedule block, blockStep, if_pos entry]

/-- The block runs the canonical handler with nothing scheduled and no fatal condition, between two of its micro-ops. -/
structure State.InHandler (s : State) : Prop where
  cfg_wf : s.cfg.wf = true
  rom : s.rom = []
  schedule : s.schedule = []
  fatal : s.fatal = .noFatal
  in_isr : s.inIsr = true
  no_debounce : s.debActive = false
  no_rem : s.debRem = 0

theorem State.InHandler.admitted {s : State} (h : s.InHandler) : s.Admitted :=
  ⟨h.cfg_wf, by rw [h.rom]; exact letsTimePass_canonical⟩

/-- Where the handler is enabled and nothing is scheduled, the step is the micro-op placed at ISR_PC. -/
theorem step_of_handlerAt {s : State} {i : Instr} (hadm : s.Admitted) (schedule : s.schedule = [])
    (rom : s.rom = []) (enabled : isrEnabled s = true) (place : HandlerAt s.isrPc i) : step s = exec i s := by
  have same : { s with schedule := [] } = s := by rw [← schedule]
  have run := step_of_sequencer (ctx := .isr) hadm (.inr ⟨schedule, rfl⟩) enabled
  rw [run, same, sequencerStep_of_ok (place.fetched rom)]

/-- The next micro-op of the handler, in front of the rest of its run. -/
theorem State.InHandler.reaches_microOp {s t u : State} {i : Instr} (h : s.InHandler)
    (place : HandlerAt s.isrPc i) (run : exec i s = .next t) (rest : Reaches t u) : Reaches s u := by
  have enabled : isrEnabled s = true := isrEnabled_iff.mpr ⟨h.fatal, h.in_isr, by simp [h.no_debounce]⟩
  have next := (step_of_handlerAt h.admitted h.schedule h.rom enabled place).trans run
  exact reaches_trans (reaches_step next) rest

/-! ## The debounce wait -/

/-- What `us` µs in the handler leave of a foreground wait (41_streamer.md R135). -/
def State.fgWaitAfter (s : State) (us : Nat) : Nat :=
  if s.fgWaitActive = true ∧ s.cfg.waitMode = .elapsed then s.fgWaitRem - us else s.fgWaitRem

/-- The state `us` µs into a debounce wait of which `left` µs remain. -/
def State.debouncing (s : State) (left us : Nat) : State :=
  { s with debActive := true, debRem := left, time := s.time + us, fgWaitRem := s.fgWaitAfter us }

/-- One tick in the handler takes 1 off the foreground wait where WAIT_MODE is Elapsed, down to 0. -/
theorem State.InHandler.tick_debouncing_fgWaitRem {s : State} (h : s.InHandler) (left us : Nat) :
    (tick (s.debouncing left us)).fgWaitRem = s.fgWaitAfter (us + 1) := by
  have counts : fgWaitCounts (s.debouncing left us) = true ↔
      s.fgWaitActive = true ∧ 0 < s.fgWaitAfter us ∧ s.cfg.waitMode = .elapsed := by
    rw [fgWaitCounts_iff]
    simp [State.debouncing, h.fatal, h.in_isr]
  have rem : (s.debouncing left us).fgWaitRem = s.fgWaitAfter us := rfl
  rw [tick_fgWaitRem, rem]
  by_cases counted : s.fgWaitActive = true ∧ s.cfg.waitMode = .elapsed
  · have after (k : Nat) : s.fgWaitAfter k = s.fgWaitRem - k := if_pos counted
    simp only [counts, after, counted, true_and, and_true]
    split <;> omega
  · have after (k : Nat) : s.fgWaitAfter k = s.fgWaitRem := if_neg counted
    have held : ¬fgWaitCounts (s.debouncing left us) = true := fun count => by
      obtain ⟨active, -, mode⟩ := counts.mp count
      exact counted ⟨active, mode⟩
    rw [if_neg held, after, after]

/-- While the debounce wait runs nothing but a tick is enabled, and the tick counts the wait down. -/
theorem State.InHandler.step_debouncing {s : State} (h : s.InHandler) (left us : Nat) :
    step (s.debouncing (left + 1) us) = .next (s.debouncing left (us + 1)) := by
  have quiet : blockEnabled (s.debouncing (left + 1) us) = false := by
    have isr : isrEnabled (s.debouncing (left + 1) us) = false := isrEnabled_of_running rfl (Nat.succ_pos _)
    have inside : (s.debouncing (left + 1) us).inIsr = true := h.in_isr
    simp [blockEnabled, isr, entryEnabled, fgEnabled, inside]
  have counted : debWaitCounts (s.debouncing (left + 1) us) = true :=
    debWaitCounts_iff.mpr ⟨h.fatal, rfl, Nat.succ_pos _⟩
  have ticked : tick (s.debouncing (left + 1) us) = s.debouncing left (us + 1) := by
    have fgRem := h.tick_debouncing_fgWaitRem (left + 1) us
    rw [tick_fgWaitRem] at fgRem
    rw [tick, fgRem, if_pos counted]
    rfl
  rw [step_of_quiet (s := s.debouncing (left + 1) us) h.admitted h.schedule quiet, ticked]

theorem State.InHandler.reaches_debounced {s : State} (h : s.InHandler) (left us : Nat) :
    Reaches (s.debouncing left us) (s.debouncing 0 (us + left)) := by
  induction left generalizing us with
  | zero => exact reaches_refl _
  | succ left ih =>
    have shift : us + (left + 1) = us + 1 + left := by omega
    rw [shift]
    exact reaches_trans (reaches_step (h.step_debouncing left us)) (ih (us + 1))

/-- DEBOUNCE in the handler, issue, countdown and completion, in front of the rest of its run (43_enable_source.md R188). -/
theorem State.InHandler.reaches_debounce {s u : State} {rem : Nat} (h : s.InHandler) (pc : s.isrPc = 36)
    (after : s.fgWaitAfter s.cfg.debounceUs = rem)
    (rest : Reaches { s with isrPc := 37, time := s.time + s.cfg.debounceUs, fgWaitRem := rem } u) : Reaches s u := by
  have issue : exec .debounce s = .next (s.debouncing s.cfg.debounceUs 0) := by
    rw [exec, execDebounce, waitHandler_issue _ h.no_debounce]
    simp [State.debouncing, State.fgWaitAfter]
  have complete : step (s.debouncing 0 s.cfg.debounceUs) = .next
      { s with isrPc := 37, time := s.time + s.cfg.debounceUs, fgWaitRem := rem } := by
    have enabled : isrEnabled (s.debouncing 0 s.cfg.debounceUs) = true :=
      isrEnabled_iff.mpr ⟨h.fatal, h.in_isr, fun ⟨_, running⟩ => absurd running (Nat.lt_irrefl 0)⟩
    rw [step_of_handlerAt (s := s.debouncing 0 s.cfg.debounceUs) h.admitted h.schedule h.rom enabled (.debounce pc),
      exec, execDebounce, waitHandler_complete _ rfl rfl]
    simp [State.debouncing, h.no_debounce, h.no_rem, pc, after]
  have elapsed := h.reaches_debounced s.cfg.debounceUs 0
  rw [Nat.zero_add] at elapsed
  exact h.reaches_microOp (.debounce pc) issue (reaches_trans elapsed (reaches_trans (reaches_step complete) rest))

/-! ## A whole invocation -/

/-- TAKE in the handler with the resource at hand, in front of the rest of its run (43_enable_source.md R184). -/
theorem State.InHandler.reaches_take {s u : State} (h : s.InHandler) (pc : s.isrPc = 32)
    (resource : s.owned = true ∨ s.slotFull = true)
    (rest : Reaches
      { s with isrPc := 33, owned := true, slotFull := s.owned && s.slotFull } u) :
    Reaches s u := by
  cases owned : s.owned with
  | true => exact h.reaches_microOp (.take pc) (exec_take_owned owned) (by simpa [pc, owned] using rest)
  | false =>
    have slot : s.slotFull = true := by simpa [owned] using resource
    exact h.reaches_microOp (.take pc) (exec_take_slot owned slot) (by simpa [pc, owned] using rest)

/-- Settles O53: the entry, and the handler's six micro-ops in the order of their addresses. -/
theorem handlerInvocationTogglesOnce : Obligations.HandlerInvocationTogglesOnce := by
  unfold Obligations.HandlerInvocationTogglesOnce
  intro s hcfg _ rom schedule fatal pend irqEn outside resource noDebounce noRem
  have hadm : s.Admitted := ⟨hcfg, by rw [rom]; exact letsTimePass_canonical⟩
  have entry : entryEnabled s = true := entryEnabled_iff.mpr ⟨fatal, pend, irqEn, outside⟩
  have h : (enterInterrupt s).InHandler := ⟨hcfg, rom, schedule, fatal, rfl, noDebounce, noRem⟩
  refine reaches_trans (reaches_step (step_of_entry hadm schedule entry)) ?_
  refine h.reaches_take rfl resource ?_
  refine State.InHandler.reaches_microOp { h with } (.test rfl) (exec_test_pending 37 pend) ?_
  refine State.InHandler.reaches_microOp { h with } (.toggle rfl) (exec_toggle _) ?_
  refine State.InHandler.reaches_microOp { h with } (.clear rfl) (exec_clear _) ?_
  refine State.InHandler.reaches_debounce (rem := s.fgWaitAfter s.cfg.debounceUs) { h with } rfl rfl ?_
  refine State.InHandler.reaches_microOp { h with } (.reti rfl) (exec_reti _) ?_
  convert reaches_refl _ using 1
  simp [enterInterrupt, State.fgWaitAfter, outside]

end Sys2Proof.Machine
end

section
/-! PROOFS. 60_exceptions.md R214 to R216: interrupt entry, which steps exclude one another, and the tick. -/

namespace Sys2Proof.Machine

/-! ## Interrupt entry -/

/-- No micro-op sets IN_ISR. -/
theorem MicroOpEffect.inIsr_of_inIsr {s t : State} {i : Instr} (e : MicroOpEffect s i t) (inside : t.inIsr = true) :
    s.inIsr = true := by
  cases e with
  | reti => cases inside
  | _ => exact inside

/-- Only an interrupt entry takes IN_ISR from 0 to 1. -/
theorem StepEffect.entryEnabled_of_inIsr {s t : State} (e : StepEffect s t) (outside : s.inIsr = false)
    (inside : t.inIsr = true) : entryEnabled s = true := by
  cases e with
  | entry enabled => exact enabled
  | microOp _ _ effect => exact absurd (effect.inIsr_of_inIsr inside) (ne_true_of_eq_false outside)
  | _ => exact absurd inside (ne_true_of_eq_false outside)

/-- Settles O8: an enabled entry is the block's own step, and `StepEffect.entryEnabled_of_inIsr` is the converse; a reset
clears IN_ISR. -/
theorem interruptEntryStartsTheHandler : Obligations.InterruptEntryStartsTheHandler := by
  unfold Obligations.InterruptEntryStartsTheHandler
  refine ⟨fun s rest hadm hnext fatal pend irqEn outside => ?_, fun s t hstep outside inside => ?_⟩
  · have entry : entryEnabled s = true := entryEnabled_iff.mpr ⟨fatal, pend, irqEn, outside⟩
    rw [step_of_blockNext hadm hnext (by simp [blockEnabled, entry])]
    exact if_pos entry
  · obtain ⟨rest, ⟨level, -, rfl⟩ | effect⟩ := stepEffect_of_step hstep
    · cases inside
    · obtain ⟨fatal, pend, irqEn, -⟩ := entryEnabled_iff.mp (effect.entryEnabled_of_inIsr outside inside)
      exact ⟨fatal, pend, irqEn⟩

/-! ## Which steps are enabled -/

theorem blockEnabled_iff {s : State} :
    blockEnabled s = true ↔ entryEnabled s = true ∨ isrEnabled s = true ∨ fgEnabled s = true := by
  simp [blockEnabled, or_assoc]

theorem tickEnabled_iff {s : State} : tickEnabled s = true ↔
    s.cfg.timeMode = .relaxed ∨ ¬(entryEnabled s = true ∨ isrEnabled s = true ∨ fgEnabled s = true) := by
  rw [← blockEnabled_iff]
  simp [tickEnabled]

theorem tickStep_of_enabled {s : State} (h : tickEnabled s = true) : tickStep s = .next (tick s) := if_pos h

/-- The block has no step of its own where none of its three is enabled. -/
theorem blockStep_of_quiet {s : State} (quiet : ¬(entryEnabled s = true ∨ isrEnabled s = true ∨ fgEnabled s = true)) :
    blockStep s = .refused .stepNotEnabled := by
  obtain ⟨noEntry, noIsr, noFg⟩ : ¬entryEnabled s = true ∧ ¬isrEnabled s = true ∧ ¬fgEnabled s = true := by
    simpa only [not_or] using quiet
  rw [blockStep, if_neg noEntry, if_neg noIsr, if_neg noFg]

/-- A move of ENV or HOST is a step in every state. -/
theorem exists_moveStep {m : Move} (s : State) (notTick : m ≠ .tick) (notBlock : m ≠ .block) :
    ∃ t, moveStep m s = .next t := by
  cases m with
  | tick => exact absurd rfl notTick
  | block => exact absurd rfl notBlock
  | button | startup | reset | hostRead | hostWrite => exact ⟨_, rfl⟩

/-- Settles O9: entry and FG step need IN_ISR = 0, the ISR step needs 1, and an FG step needs that no entry is enabled; each
scheduled move is `moveStep`. -/
theorem enabledStepsExcludeOneAnother : Obligations.EnabledStepsExcludeOneAnother := by
  unfold Obligations.EnabledStepsExcludeOneAnother
  refine ⟨fun s => ⟨?_, ?_, ?_⟩, fun s rest hadm hs => ?_, fun s rest hadm hs quiet => ?_,
    fun s m rest hadm hs notTick notBlock => ?_⟩
  · rintro ⟨entry, isr⟩
    obtain ⟨-, -, -, outside⟩ := entryEnabled_iff.mp entry
    obtain ⟨-, inside, -⟩ := isrEnabled_iff.mp isr
    exact absurd inside (ne_true_of_eq_false outside)
  · rintro ⟨entry, fg⟩
    obtain ⟨-, pend, irqEn, -⟩ := entryEnabled_iff.mp entry
    obtain ⟨-, -, noEntry, -⟩ := fgEnabled_iff.mp fg
    exact noEntry ⟨pend, irqEn⟩
  · rintro ⟨isr, fg⟩
    obtain ⟨-, inside, -⟩ := isrEnabled_iff.mp isr
    obtain ⟨-, outside, -⟩ := fgEnabled_iff.mp fg
    exact absurd inside (ne_true_of_eq_false outside)
  · have next : step s = tickStep { s with schedule := rest } := step_of_move hadm hs
    rw [next]
    refine ⟨fun ⟨t, ticks⟩ => ?_, fun enabled => ⟨_, tickStep_of_enabled (tickEnabled_iff.mpr enabled)⟩⟩
    obtain ⟨enabled, -⟩ := tickStep_cases ticks
    exact tickEnabled_iff.mp enabled
  · exact (step_of_move hadm hs).trans (blockStep_of_quiet quiet)
  · rw [step_of_move hadm hs]
    exact exists_moveStep _ notTick notBlock

/-! ## The tick -/

/-- An enabled tick is the next step where it is scheduled, or where nothing is and the block is idle. -/
theorem step_of_tick {s : State} {rest : List Move} (hadm : s.Admitted)
    (hnext : s.schedule = .tick :: rest ∨ (s.schedule = [] ∧ rest = [] ∧
      ¬(entryEnabled s = true ∨ isrEnabled s = true ∨ fgEnabled s = true)))
    (enabled : tickEnabled s = true) : step s = .next (tick { s with schedule := rest }) := by
  obtain hs | ⟨hs, rfl, quiet⟩ := hnext
  · exact (step_of_move hadm hs).trans (tickStep_of_enabled enabled)
  · rw [← blockEnabled_iff, Bool.not_eq_true] at quiet
    rw [step_of_quiet hadm hs quiet, ← hs]

/-- Settles O10: the step is `tick`, and `fgWaitCounts_iff` and `debWaitCounts_iff` say when it counts a wait down. -/
theorem tickAdvancesTimeAndWaits : Obligations.TickAdvancesTimeAndWaits := by
  unfold Obligations.TickAdvancesTimeAndWaits
  intro s rest hadm hnext enabled
  refine ⟨_, step_of_tick hadm hnext (tickEnabled_iff.mpr enabled), rfl, fun counts => ?_, fun held => ?_,
    fun counts => ?_, fun held => ?_⟩
  · exact if_pos (fgWaitCounts_iff.mpr counts)
  · exact if_neg fun counts => held (fgWaitCounts_iff.mp counts)
  · exact if_pos (debWaitCounts_iff.mpr counts)
  · exact if_neg fun counts => held (debWaitCounts_iff.mp counts)

end Sys2Proof.Machine
end

section
/-! PROOFS. 60_exceptions.md R214, R227: what the foreground leaves alone, and how long its waits last. -/

namespace Sys2Proof.Machine

/-- What an FG micro-op leaves of the handler's fields; the three boot micro-ops are the exceptions. -/
theorem MicroOpEffect.keeps_handler_fields {s t : State} {i : Instr} (e : MicroOpEffect s i t) (hctx : i.context = .fg) :
    t.isrPc = s.isrPc ∧ t.en = s.en ∧ t.pend = s.pend ∧ t.inIsr = s.inIsr ∧ t.owned = s.owned ∧
      t.debActive = s.debActive ∧ t.debRem = s.debRem ∧
      (i ≠ .put → t.slotFull = s.slotFull) ∧ (i ≠ .init → t.armed = s.armed) ∧ (i ≠ .unmask → t.irqEn = s.irqEn) := by
  cases e with
  | init_succeeds => exact ⟨rfl, rfl, rfl, rfl, rfl, rfl, rfl, fun _ => rfl, (absurd rfl ·), fun _ => rfl⟩
  | put => exact ⟨rfl, rfl, rfl, rfl, rfl, rfl, rfl, (absurd rfl ·), fun _ => rfl, fun _ => rfl⟩
  | unmask => exact ⟨rfl, rfl, rfl, rfl, rfl, rfl, rfl, fun _ => rfl, fun _ => rfl, (absurd rfl ·)⟩
  | take_owned | take_slot | take_empty | test_pending | test_clear | toggle | clear | debounce_issue
  | debounce_complete | reti => cases hctx
  | _ => exact ⟨rfl, rfl, rfl, rfl, rfl, rfl, rfl, fun _ => rfl, fun _ => rfl, fun _ => rfl⟩

/-- Settles O34: `MicroOpEffect.keeps_handler_fields`, and T and BTN, which no micro-op touches. -/
theorem foregroundKeepsHandlerState : Obligations.ForegroundKeepsHandlerState := by
  unfold Obligations.ForegroundKeepsHandlerState
  intro i s t hctx run
  have effect := microOpEffect_of_exec run
  obtain ⟨isrPc, en, pend, inIsr, owned, debActive, debRem, exceptions⟩ := effect.keeps_handler_fields hctx
  obtain ⟨-, -, time, btn, -⟩ := effect.frame
  exact ⟨isrPc, en, pend, inIsr, owned, debActive, debRem, time, btn, exceptions⟩

/-! ## The foreground wait -/

/-- A micro-op during a foreground wait leaves the wait alone or completes it. -/
theorem MicroOpEffect.fgWait_keeps_or_completes {s t : State} {i : Instr} (e : MicroOpEffect s i t)
    (active : s.fgWaitActive = true) :
    (t.fgWaitActive = true ∧ t.fgWaitRem = s.fgWaitRem) ∨ (t.fgWaitActive = false ∧ s.fgWaitRem = 0) := by
  cases e with
  | waits_issue idle | gap_issue idle => exact absurd active (ne_true_of_eq_false idle)
  | waits_complete _ elapsed | gap_complete _ elapsed => exact .inr ⟨rfl, elapsed⟩
  | _ => exact .inl ⟨active, rfl⟩

/-- A step during a foreground wait keeps it, with what is left of it plus T no smaller, or completes it at 0 without taking
time. -/
theorem StepEffect.fgWait_lasts {s t : State} (e : StepEffect s t) (active : s.fgWaitActive = true) :
    (t.fgWaitActive = true ∧ s.fgWaitRem + s.time ≤ t.fgWaitRem + t.time) ∨
      (t.fgWaitActive = false ∧ s.fgWaitRem = 0 ∧ t.time = s.time) := by
  cases e with
  | microOp _ _ effect =>
    obtain ⟨-, -, time, -⟩ := effect.frame
    obtain ⟨still, left⟩ | ⟨ends, elapsed⟩ := effect.fgWait_keeps_or_completes active
    · exact .inl ⟨still, by rw [left, time]⟩
    · exact .inr ⟨ends, elapsed, time⟩
  | tick =>
    have lowered := (tick_fgWaitRem_bounds s).2
    exact .inl ⟨active, by rw [tick_time]; omega⟩
  | _ => exact .inl ⟨active, Nat.le_refl _⟩

/-- Settles O37: the two cases of `StepEffect.fgWait_lasts`, told apart by FG_WAIT_ACTIVE. -/
theorem waitsLastAtLeastTheirLength : Obligations.WaitsLastAtLeastTheirLength := by
  unfold Obligations.WaitsLastAtLeastTheirLength
  intro s t hstep hreset active
  obtain ⟨rest, effect⟩ := stepEffect_of_not_reset hstep hreset
  obtain ⟨still, lasts⟩ | ⟨ends, complete⟩ := effect.fgWait_lasts active
  · exact ⟨fun _ => lasts, fun ends => absurd still (ne_true_of_eq_false ends)⟩
  · exact ⟨fun still => absurd still (ne_true_of_eq_false ends), fun _ => complete⟩

end Sys2Proof.Machine
end

section
/-! PROOFS. 60_exceptions.md R208 to R212: the block always has a next state, and how the canonical programs fail. -/

namespace Sys2Proof.Machine

/-- The foreground wait of an enabled FG step is not running, so a wait micro-op issues or completes. -/
theorem exists_waitForeground {s : State} (us : Nat) (enabled : fgEnabled s = true) :
    ∃ t, waitForeground us s = .next t := by
  obtain ⟨-, -, -, free⟩ := fgEnabled_iff.mp enabled
  cases active : s.fgWaitActive with
  | false => exact ⟨_, waitForeground_issue us active⟩
  | true => exact ⟨_, waitForeground_complete us active (Nat.eq_zero_of_not_pos fun running => free ⟨active, running⟩)⟩

theorem exists_waitHandler {s : State} (us : Nat) (enabled : isrEnabled s = true) :
    ∃ t, waitHandler us s = .next t := by
  obtain ⟨-, -, free⟩ := isrEnabled_iff.mp enabled
  cases active : s.debActive with
  | false => exact ⟨_, waitHandler_issue us active⟩
  | true => exact ⟨_, waitHandler_complete us active (Nat.eq_zero_of_not_pos fun running => free ⟨active, running⟩)⟩

/-- Every micro-op of an enabled sequencer has a next state: with IDX < N the table has an entry, and no wait runs. -/
theorem exists_exec {s : State} {i : Instr} (inRange : s.idx < s.cfg.n) (enabled : contextEnabled i.context s = true) :
    ∃ t, exec i s = .next t := by
  cases i with
  | wra => exact ⟨_, exec_wra (tableEntry_of_lt inRange)⟩
  | wrb => exact ⟨_, exec_wrb (tableEntry_of_lt inRange)⟩
  | waits | gap => exact exists_waitForeground _ enabled
  | debounce => exact exists_waitHandler _ enabled
  | _ => exact ⟨_, rfl⟩

theorem exists_sequencerStep {ctx : Context} {s : State} (inRange : s.idx < s.cfg.n)
    (enabled : contextEnabled ctx s = true) : ∃ t, sequencerStep ctx s = .next t := by
  cases fetched : decode ctx (fetchWord ctx s) with
  | error e => exact ⟨_, sequencerStep_of_error fetched⟩
  | ok i =>
    obtain rfl := context_of_decode fetched
    rw [sequencerStep_of_ok fetched]
    exact exists_exec inRange enabled

/-- Settles O43: an entry, a step of the enabled sequencer (`exists_sequencerStep`), or a tick where none is enabled. -/
theorem blockNeverStops : Obligations.BlockNeverStops := by
  unfold Obligations.BlockNeverStops
  intro s h schedule
  have hadm : s.Admitted := ⟨h.cfg_wf, h.lets_time_pass⟩
  have ofSequencer {ctx : Context} (enabled : contextEnabled ctx s = true) : ∃ t, step s = .next t := by
    rw [step_of_sequencer (rest := []) hadm (.inr ⟨schedule, rfl⟩) enabled, ← schedule]
    exact exists_sequencerStep h.idx_lt enabled
  cases block : blockEnabled s with
  | false => exact ⟨_, step_of_quiet hadm schedule block⟩
  | true =>
    obtain entry | isr | fg := blockEnabled_iff.mp block
    · exact ⟨_, step_of_entry hadm schedule entry⟩
    · exact ofSequencer (ctx := .isr) isr
    · exact ofSequencer (ctx := .fg) fg

/-- Settles O45: the fatal clause of the canonical invariant, and its boot clause at address 0. -/
theorem canonicalProgramsFailOnlyAtStartup : Obligations.CanonicalProgramsFailOnlyAtStartup := by
  unfold Obligations.CanonicalProgramsFailOnlyAtStartup
  intro cfg t hcfg reachable
  obtain ⟨inv, -⟩ := reachable_streamInv hcfg reachable
  obtain alive | ⟨failed, pc⟩ := inv.canonical.fatal
  · exact .inl alive
  · obtain ⟨-, -, zeroOutputs⟩ := inv.canonical.boot (by simp [pc])
    exact .inr ⟨failed, pc, zeroOutputs⟩

end Sys2Proof.Machine
end

section
/-! PROOFS. 60_exceptions.md R225, 41_streamer.md R133, 42_control.md R161: in FreeRun a weakly fair run keeps moving the
foreground, and each move brings it nearer to the next write of a given table entry. -/

namespace Sys2Proof.Machine

/-! ## FreeRun past INIT -/

/-- A FreeRun block of the canonical programs past INIT. -/
structure State.FreeRunning (s : State) : Prop where
  stream : s.StreamInv
  free : s.cfg.variant = .freeRun
  started : s.fgPc ≠ 0

theorem State.FreeRunning.with_schedule {s : State} (h : s.FreeRunning) (rest : List Move) :
    State.FreeRunning { s with schedule := rest } :=
  { h with stream := { h.stream with canonical := h.stream.canonical.with_schedule rest } }

/-- StartupFault is raised at address 0 only. -/
theorem State.FreeRunning.alive {s : State} (h : s.FreeRunning) : s.fatal = .noFatal := by
  obtain alive | ⟨-, pc⟩ := h.stream.canonical.fatal
  · exact alive
  · exact absurd pc h.started

theorem State.FreeRunning.running {s : State} (h : s.FreeRunning) : s.en = true := by
  obtain ⟨en, -⟩ := h.stream.canonical.inv.free_run h.free
  exact en

theorem State.FreeRunning.no_handler {s : State} (h : s.FreeRunning) : s.pend = false ∧ s.inIsr = false := by
  obtain ⟨-, -, -, noEdge, outside, -⟩ := h.stream.canonical.inv.free_run h.free
  exact ⟨noEdge, outside⟩

theorem State.FreeRunning.no_entry {s : State} (h : s.FreeRunning) : ¬entryEnabled s = true := by
  simp [entryEnabled, h.no_handler]

theorem State.FreeRunning.no_isr {s : State} (h : s.FreeRunning) : ¬isrEnabled s = true := by
  simp [isrEnabled, h.no_handler]

/-- Only a wait in progress holds the foreground up. -/
theorem State.FreeRunning.fgEnabled_iff_free {s : State} (h : s.FreeRunning) :
    fgEnabled s = true ↔ ¬(s.fgWaitActive = true ∧ 0 < s.fgWaitRem) := by
  simp [fgEnabled_iff, h.alive, h.no_handler]

/-- The foreground of MP_FG does not come back to INIT. -/
theorem ForegroundAt.fgPc_ne_zero {s t : State} {i : Instr} (place : ForegroundAt s.fgPc i) (effect : MicroOpEffect s i t)
    (started : s.fgPc ≠ 0) : t.fgPc ≠ 0 := by
  cases place with
  | init pc => exact absurd pc started
  | _ pc => cases effect <;> simp [pc]

theorem StepEffect.keeps_freeRunning {s t : State} (h : s.FreeRunning) (effect : StepEffect s t) : t.FreeRunning where
  stream := stepEffect_keeps_streamInv h.stream effect
  free := by rw [effect.keeps_parameters.1, h.free]
  started := by
    cases effect with
    | entry enabled => exact absurd enabled h.no_entry
    | @microOp i _ enabled fetched effect =>
      cases hctx : i.context with
      | fg =>
        rw [hctx] at fetched
        exact (h.stream.canonical.foregroundAt fetched).fgPc_ne_zero effect h.started
      | isr =>
        rw [hctx] at enabled
        exact absurd enabled h.no_isr
    | _ => exact h.started

/-! ## Where the foreground stands -/

/-- What the foreground's progress is measured by: FG_PC, PASS_REM (which fixes IDX in a pass) and the foreground wait. -/
structure ForegroundPosition where
  pc : Addr
  passRem : Nat
  waiting : Bool
  left : Nat

def State.position (s : State) : ForegroundPosition := ⟨s.fgPc, s.passRem, s.fgWaitActive, s.fgWaitRem⟩

/-- The step that moves the foreground on: a tick while its wait runs, else its micro-op. -/
def ForegroundPosition.ownStep (p : ForegroundPosition) : OwnStep := if p.waiting = true ∧ 0 < p.left then .tick else .fg

theorem ownStep_of_wait {s : State} (waits : s.fgWaitActive = true ∧ 0 < s.fgWaitRem) : s.position.ownStep = .tick :=
  if_pos waits

theorem ownStep_of_free {s : State} (free : ¬(s.fgWaitActive = true ∧ 0 < s.fgWaitRem)) : s.position.ownStep = .fg :=
  if_neg free

theorem State.FreeRunning.quiet_of_wait {s : State} (h : s.FreeRunning)
    (waits : s.fgWaitActive = true ∧ 0 < s.fgWaitRem) :
    ¬(entryEnabled s = true ∨ isrEnabled s = true ∨ fgEnabled s = true) := by
  rintro (entry | isr | fg)
  · exact h.no_entry entry
  · exact h.no_isr isr
  · exact h.fgEnabled_iff_free.mp fg waits

theorem State.FreeRunning.ownStep_enabled {s : State} (h : s.FreeRunning) : s.position.ownStep.enabled s = true := by
  by_cases waits : s.fgWaitActive = true ∧ 0 < s.fgWaitRem
  · rw [ownStep_of_wait waits]
    exact tickEnabled_iff.mpr (.inr (h.quiet_of_wait waits))
  · rw [ownStep_of_free waits]
    exact h.fgEnabled_iff_free.mpr waits

/-- Every move but the one that takes the foreground's own step leaves it where it stands. -/
theorem State.FreeRunning.position_of_other_move {s t : State} {m : Move} (h : s.FreeRunning)
    (moved : moveStep m s = .next t) (noReset : ∀ level, m ≠ .reset level) (other : m ≠ s.position.ownStep.move) :
    t.position = s.position := by
  cases m with
  | block =>
    have waits : s.fgWaitActive = true ∧ 0 < s.fgWaitRem := by
      by_contra free
      exact other (by rw [ownStep_of_free free]; rfl)
    cases (blockStep_of_quiet (h.quiet_of_wait waits)).symm.trans moved
  | tick =>
    have held : ¬fgWaitCounts s = true := fun counts => by
      obtain ⟨-, active, running, -⟩ := fgWaitCounts_iff.mp counts
      exact other (by rw [ownStep_of_wait ⟨active, running⟩]; rfl)
    obtain ⟨-, rfl⟩ := tickStep_cases moved
    simp [State.position, held]
  | reset level => exact absurd rfl (noReset level)
  | button | startup | hostRead | hostWrite => obtain rfl := next_inj moved; rfl

/-! ## How far it is to the write of an entry -/

/-- The waits that the foreground still completes before it writes entry `i`, when the next entry it writes is `a`: WAITS
after each entry on the way, and GAP between two passes (`a = n` is the end of a pass). -/
def waitsFrom (n i a : Nat) : Nat := if a ≤ i then i - a else n - a + 1 + i

/-- Likewise, by FG_PC and PASS_REM. -/
def waitsLeft (n i : Nat) (pc : Addr) (passRem : Nat) : Nat :=
  if 6 ≤ pc.toNat ∧ pc.toNat ≤ 8 then waitsFrom n i (n - passRem)
  else if pc = 9 then waitsFrom n i (n + 1 - passRem) + 1
  else if pc = 10 then waitsFrom n i (n + 1 - passRem)
  else if 11 ≤ pc.toNat ∧ pc.toNat ≤ 17 then i + 1
  else i

/-- A bound on the FG steps still to take: `foregroundRank` falls between two waits, and each wait is issued and completed. -/
def ForegroundPosition.stepsLeft (n i : Nat) (p : ForegroundPosition) : Nat :=
  42 * waitsLeft n i p.pc p.passRem + 2 * foregroundRank p.pc + if p.waiting then 0 else 1

/-- FG steps and ticks together: a wait is shorter than 2^32 µs (10_state.md R38). -/
def ForegroundPosition.distance (n i : Nat) (p : ForegroundPosition) : Nat := 2 ^ 32 * p.stepsLeft n i + p.left

theorem waitsFrom_zero (n i : Nat) : waitsFrom n i 0 = i := if_pos (Nat.zero_le i)

/-- At the end of a pass the entry is written in the next one, behind GAP. -/
theorem waitsFrom_end {n i : Nat} (below : i < n) : waitsFrom n i n = i + 1 := by
  rw [waitsFrom, if_neg (Nat.not_le_of_lt below), Nat.sub_self, Nat.zero_add, Nat.add_comm]

/-- An entry other than `i` is followed by one WAITS. -/
theorem waitsFrom_succ {n i a : Nat} (inRange : a < n) (other : a ≠ i) : waitsFrom n i (a + 1) + 1 = waitsFrom n i a := by
  unfold waitsFrom
  split <;> split <;> omega

theorem foregroundRank_le (a : Addr) : foregroundRank a ≤ 20 := by
  unfold foregroundRank
  split <;> omega

/-- Between two waits the steps left follow the rank of the address. -/
theorem stepsLeft_lt_of_rank {n i : Nat} {p q : ForegroundPosition} (sameWait : q.waiting = p.waiting)
    (waits : waitsLeft n i q.pc q.passRem = waitsLeft n i p.pc p.passRem)
    (rank : foregroundRank q.pc < foregroundRank p.pc) : q.stepsLeft n i < p.stepsLeft n i := by
  unfold ForegroundPosition.stepsLeft
  rw [sameWait, waits]
  omega

/-- A wait less outweighs any rank. -/
theorem stepsLeft_lt_of_waitsLeft {n i : Nat} {p q : ForegroundPosition}
    (waits : waitsLeft n i q.pc q.passRem < waitsLeft n i p.pc p.passRem) : q.stepsLeft n i < p.stepsLeft n i := by
  have rank := foregroundRank_le q.pc
  unfold ForegroundPosition.stepsLeft
  split <;> split <;> omega

/-- Issuing a wait is a step. -/
theorem stepsLeft_lt_of_issue {n i : Nat} {s : State} (idle : s.fgWaitActive = false) (us : Nat) :
    (State.position { s with fgWaitActive := true, fgWaitRem := us }).stepsLeft n i < s.position.stepsLeft n i := by
  simp [ForegroundPosition.stepsLeft, State.position, idle]

/-- A foreground micro-op lowers the number of steps left, but for INC after the entry itself. -/
theorem ForegroundAt.stepsLeft_falls {s t : State} {j : Instr} {i : Nat} (h : s.FreeRunning) (below : i < s.cfg.n)
    (place : ForegroundAt s.fgPc j) (effect : MicroOpEffect s j t) (notYet : ¬(s.fgPc = 8 ∧ s.idx = i)) :
    t.position.stepsLeft s.cfg.n i < s.position.stepsLeft s.cfg.n i := by
  have pass_le := h.stream.canonical.inv.pass_le
  cases place with
  | init pc => exact absurd pc h.started
  | poll pc =>
    cases effect with
    | poll_running =>
      exact stepsLeft_lt_of_rank rfl (by simp [waitsLeft, State.position, pc])
        (by simp [foregroundRank, State.position, pc])
    | poll_paused paused => exact absurd h.running (ne_true_of_eq_false paused)
  | passinit pc =>
    cases effect
    exact stepsLeft_lt_of_rank rfl (by simp [waitsLeft, State.position, pc, waitsFrom_zero])
      (by simp [foregroundRank, State.position, pc])
  | inc pc =>
    obtain ⟨more, count⟩ := h.stream.before_inc (by simp [pc])
    have other : s.cfg.n - s.passRem ≠ i := fun here => notYet ⟨pc, by omega⟩
    have next : s.cfg.n + 1 - s.passRem = s.cfg.n - s.passRem + 1 := by omega
    have written := waitsFrom_succ (n := s.cfg.n) (by omega) other
    cases effect
    exact stepsLeft_lt_of_rank rfl (by simp [waitsLeft, State.position, pc, next, written])
      (by simp [foregroundRank, State.position, pc])
  | passnext pc =>
    obtain ⟨more, -⟩ := h.stream.after_inc (by simp [pc])
    cases effect with
    | passnext_again again =>
      have next : s.cfg.n - (s.passRem - 1) = s.cfg.n + 1 - s.passRem := by omega
      exact stepsLeft_lt_of_rank rfl (by simp [waitsLeft, State.position, pc, next])
        (by simp [foregroundRank, State.position, pc])
    | passnext_last last =>
      have single : s.passRem = 1 := Nat.le_antisymm last more
      exact stepsLeft_lt_of_rank rfl (by simp [waitsLeft, State.position, pc, single, waitsFrom_end below])
        (by simp [foregroundRank, State.position, pc])
  | waits pc =>
    cases effect with
    | waits_issue idle => exact stepsLeft_lt_of_issue idle _
    | waits_complete => exact stepsLeft_lt_of_waitsLeft (by simp [waitsLeft, State.position, pc])
  | gap pc =>
    cases effect with
    | gap_issue idle => exact stepsLeft_lt_of_issue idle _
    | gap_complete => exact stepsLeft_lt_of_waitsLeft (by simp [waitsLeft, State.position, pc])
  | _ pc =>
    cases effect <;> exact stepsLeft_lt_of_rank rfl (by simp [waitsLeft, State.position, pc])
      (by simp [foregroundRank, State.position, pc])

/-- The foreground's own step brings it nearer to the write of entry `i`, where it does not stand behind that write. -/
theorem State.FreeRunning.distance_falls {s t : State} {i : Nat} (h : s.FreeRunning) (below : i < s.cfg.n)
    (moved : moveStep s.position.ownStep.move s = .next t) (after : t.FreeRunning)
    (notYet : ¬(s.fgPc = 8 ∧ s.idx = i)) : t.position.distance s.cfg.n i < s.position.distance s.cfg.n i := by
  by_cases waits : s.fgWaitActive = true ∧ 0 < s.fgWaitRem
  · rw [ownStep_of_wait waits] at moved
    obtain ⟨-, rfl⟩ := tickStep_cases moved
    obtain ⟨active, running⟩ := waits
    obtain ⟨-, outside⟩ := h.no_handler
    have counts : fgWaitCounts s = true := fgWaitCounts_iff.mpr ⟨h.alive, active, running, .inr outside⟩
    have counted : (tick s).fgWaitRem < s.fgWaitRem := by
      rw [tick_fgWaitRem, if_pos counts]
      exact Nat.sub_lt running Nat.one_pos
    exact Nat.add_lt_add_left counted _
  · rw [ownStep_of_free waits] at moved
    have enabled : contextEnabled .fg s = true := h.fgEnabled_iff_free.mpr waits
    obtain ⟨j, place⟩ := exists_foregroundAt h.stream.canonical.fg_pc
    have run : exec j s = .next t := by
      rw [← sequencerStep_of_ok (place.fetched h.stream.canonical.rom), ← blockStep_of_contextEnabled enabled]
      exact moved
    have fewer := place.stepsLeft_falls h below (microOpEffect_of_exec run) notYet
    have bound : t.position.left < 2 ^ 32 := after.stream.canonical.inv.fg_wait_bound
    unfold ForegroundPosition.distance
    omega

/-! ## Weakly fair runs -/

/-- A FreeRun run that is not reset stays in FreeRun past INIT, in its own configuration. -/
theorem InfiniteRun.freeRunning {run : Nat → State} {moves : Nat → Move} (inf : InfiniteRun run moves)
    (noReset : ∀ k level, moves k ≠ .reset level) (start : (run 0).FreeRunning) (k : Nat) :
    (run k).FreeRunning ∧ (run k).cfg = (run 0).cfg := by
  induction k with
  | zero => exact ⟨start, rfl⟩
  | succ k ih =>
    obtain ⟨h, sameCfg⟩ := ih
    have notReset : ¬ResetNext { run k with schedule := [moves k] } := by
      rintro ⟨level, rest, hs⟩
      exact noReset k level (List.cons.inj hs).1
    obtain ⟨rest, effect⟩ := stepEffect_of_not_reset (inf.next k) notReset
    exact ⟨effect.keeps_freeRunning (h.with_schedule rest), effect.keeps_parameters.1.trans sameCfg⟩

theorem InfiniteRun.moveStep_eq {run : Nat → State} {moves : Nat → Move} (inf : InfiniteRun run moves) (k : Nat) :
    moveStep (moves k) (run k) = .next (run (k + 1)) := by
  have same : { run k with schedule := [] } = run k := by rw [← inf.nothing_left k]
  rw [← inf.next k, step_of_move (admitted_of_next (inf.next k)) rfl, same]

/-- The foreground's own step is enabled for as long as the foreground stands still, so fairness takes it. -/
theorem InfiniteRun.ownStep_taken {run : Nat → State} {moves : Nat → Move} (inf : InfiniteRun run moves)
    (fair : WeaklyFair run moves) (noReset : ∀ k level, moves k ≠ .reset level) (start : (run 0).FreeRunning) (k : Nat) :
    ∃ j, k ≤ j ∧ (run j).position = (run k).position ∧ moves j = (run k).position.ownStep.move := by
  obtain ⟨j, hkj, settled⟩ := fair (run k).position.ownStep k
  obtain ⟨d, rfl⟩ := Nat.exists_eq_add_of_le hkj
  clear hkj
  induction d generalizing k with
  | zero =>
    have enabled := (inf.freeRunning noReset start k).1.ownStep_enabled
    obtain disabled | ⟨-, taken⟩ := settled
    · exact absurd enabled (ne_true_of_eq_false disabled)
    · exact ⟨k, Nat.le_refl k, rfl, taken⟩
  | succ d ih =>
    by_cases taken : moves k = (run k).position.ownStep.move
    · exact ⟨k, Nat.le_refl k, rfl, taken⟩
    · have still : (run (k + 1)).position = (run k).position :=
        (inf.freeRunning noReset start k).1.position_of_other_move (inf.moveStep_eq k) (noReset k) taken
      have later : k + (d + 1) = k + 1 + d := by omega
      rw [later] at settled
      obtain ⟨j, hkj, same, taken⟩ := ih (k + 1) (by rwa [still])
      rw [still] at same taken
      exact ⟨j, Nat.le_of_succ_le hkj, same, taken⟩

/-- Settles O52: by induction on the distance to the write of the entry, which the foreground's own step lowers; that
nothing is fatal follows from FG_PC ≠ 0. -/
theorem everyPassIsEventuallyWritten : Obligations.EveryPassIsEventuallyWritten := by
  unfold Obligations.EveryPassIsEventuallyWritten
  intro run moves inf fair noReset stream free _ started i below k
  have along := inf.freeRunning noReset ⟨stream, free, started⟩
  induction hd : (run k).position.distance (run 0).cfg.n i using Nat.strong_induction_on generalizing k with
  | _ distance ih =>
    obtain ⟨j, hkj, same, taken⟩ := inf.ownStep_taken fair noReset ⟨stream, free, started⟩ k
    obtain ⟨h, sameCfg⟩ := along j
    by_cases written : (run j).fgPc = 8 ∧ (run j).idx = i
    · obtain ⟨pc, rfl⟩ := written
      exact ⟨j, hkj, pc, rfl, sameCfg ▸ h.stream.fresh_pair pc⟩
    · have moved := inf.moveStep_eq j
      rw [taken, ← same] at moved
      have nearer := h.distance_falls (sameCfg ▸ below) moved (along (j + 1)).1 written
      rw [sameCfg, same, hd] at nearer
      obtain ⟨l, hjl, result⟩ := ih _ nearer (j + 1) rfl
      exact ⟨l, (Nat.le_succ_of_le hkj).trans hjl, result⟩

end Sys2Proof.Machine
end

section
/-! PROOFS. 70_reset_and_hazards.md R236 to R238, 10_state.md R59: the reset step, and what the reset state leaves masked and
disarmed. -/

namespace Sys2Proof.Machine

/-! ## The reset step -/

/-- ENV's reset is a step in every state of a machine that exists, a fatal one among them. -/
theorem step_of_reset {s : State} {level : Bool} {rest : List Move} (hadm : s.Admitted)
    (hs : s.schedule = .reset level :: rest) : step s = .next (applyReset level { s with schedule := rest }) :=
  step_of_move hadm hs

/-- EN is the one field of R59 that depends on the variant. -/
theorem applyReset_en {level : Bool} {s : State} : (applyReset level s).en = true ↔ s.cfg.variant = .freeRun :=
  decide_eq_true_iff

/-- Settles O12: the step is `applyReset`, so each field is read off `State.initial`; only EN depends on the variant. -/
theorem resetAppendsTheMarkerAndRestoresTheState : Obligations.ResetAppendsTheMarkerAndRestoresTheState := by
  unfold Obligations.ResetAppendsTheMarkerAndRestoresTheState
  intro s level rest hadm hs
  exact ⟨_, step_of_reset hadm hs, rfl, rfl, rfl, rfl, rfl, rfl, rfl, rfl, rfl, rfl, rfl, rfl, applyReset_en,
    rfl, rfl, rfl, rfl, rfl, rfl, rfl, rfl, rfl, rfl, rfl, rfl, rfl⟩

/-! ## The reset state -/

section

variable {cfg : Config} {rom : Memory} {btn ok level : Bool} {out : List OutEntry} {dia : List DiagEntry}
  {host : List HostEntry} {sched : List Move}

theorem initial_en_of_toggle (toggle : cfg.variant = .toggle) :
    (State.initial cfg rom btn ok out dia host sched).en = false := by
  simp [State.initial, toggle]

theorem initial_en_of_freeRun (free : cfg.variant = .freeRun) :
    (State.initial cfg rom btn ok out dia host sched).en = true :=
  decide_eq_true free

/-- The interrupt is masked: IRQ_EN is clear. -/
theorem initial_entryEnabled : entryEnabled (State.initial cfg rom btn ok out dia host sched) = false := by
  refine Bool.eq_false_of_not_eq_true fun enabled => ?_
  obtain ⟨-, -, unmasked, -⟩ := entryEnabled_iff.mp enabled
  exact Bool.false_ne_true unmasked

/-- The latch is disarmed: ARMED is clear. -/
theorem initial_edgeLatches : edgeLatches level (State.initial cfg rom btn ok out dia host sched) = false := by
  refine Bool.eq_false_of_not_eq_true fun latched => ?_
  obtain ⟨-, -, armed, -⟩ := edgeLatches_iff.mp latched
  exact Bool.false_ne_true armed

end

/-- Settles O13: EN by the variant, no entry by the mask, no latch by ARMED; INIT is what MP_FG holds at address 0. -/
theorem resetStateIsMaskedAndDisarmed : Obligations.ResetStateIsMaskedAndDisarmed := by
  unfold Obligations.ResetStateIsMaskedAndDisarmed
  refine ⟨fun cfg rom btn ok out dia host sched level => ?_, rfl, ForegroundAt.fetched (.init rfl) rfl⟩
  exact ⟨rfl, rfl, rfl, fun toggle => ⟨initial_en_of_toggle toggle, rfl⟩, initial_en_of_freeRun,
    initial_entryEnabled, initial_edgeLatches⟩

end Sys2Proof.Machine
end
